-- ==== Sys2Proof/Word.lean ====
section
/-! DEFINITION. The block's word types: bytes, port words, and the byte-addressed store of rule R60. -/

namespace Sys2Proof

/-- A byte: an unsigned integer 0..255 (R9). -/
abbrev Byte := BitVec 8

/-- The 16-bit operand port `A`: a table offset, `maxLen` or a parameter index (R7). -/
abbrev PortA := BitVec 16

/-- The 32-bit operand port `B` and the 32-bit result port `RES` (R7). -/
abbrev Word := BitVec 32

/-- A byte-addressed space of `Option Byte` cells (R10, R27, R29, R60).
A listed address holds its byte; an unlisted address holds `⊥` ("no value"). -/
abbrev Memory := List Host.Cell

end Sys2Proof
end

