-- ==== Sys2Proof/Syntax.lean ====
section
/-! DEFINITION. The operations of spec/opcode_table.json with the port operands each reads (R87, R97), and the request and answer types of the input ports (R36). -/

namespace Sys2Proof

/-- A storage answer on port `SRESP` (R97, R210). -/
inductive StorageAnswer where
  /-- `Ok [bytes]`: the answer to a `StoreLoad` that succeeds. -/
  | okData (d : List Byte)
  /-- `Ok`: the answer to a `StoreSave` that succeeds. -/
  | ok
  /-- `Failed`. -/
  | failed
deriving DecidableEq, Repr

/-- One request on the input ports of rule R36. -/
structure Request where
  /-- `OPW`, the request word (R85). -/
  opw : Byte
  /-- Port `A`. -/
  a : PortA := 0#16
  /-- Port `B`. -/
  b : Word := 0#32
  /-- Port `SEQ`. -/
  seq : List Byte := []
  /-- Port `SRESP`. -/
  sresp : StorageAnswer := .failed
deriving DecidableEq, Repr

/-- What the host does to the block in one step (R36): assert `RST`, or issue a request. -/
inductive HostInput where
  /-- `RST` asserted: "While `RST` is asserted the block takes no operation" (R260). -/
  | rst
  /-- A request on the request port. -/
  | op (r : Request)
deriving DecidableEq, Repr

/-- The 28 operations (R91), each with the operands rule R87 says it reads. -/
inductive Instr where
  /-- `PB`: process one received byte (R110). -/
  | pb (b : Byte)
  /-- `PRST`: abandon a partial frame (R120). -/
  | prst
  /-- `UCK`: recompute the checksum (R145). -/
  | uck
  /-- `SER`: serialize the packet into at most `maxLen` bytes (R146). -/
  | ser (maxLen : PortA)
  /-- `SID`: set the packet id (R140). -/
  | sid (b : Byte)
  /-- `SCMD` (also written `SERR`): set the command (R141). -/
  | scmd (b : Byte)
  /-- `SPAR`: set the parameter list (R142). -/
  | spar (seq : List Byte)
  /-- `RID`: read `id` (R150). -/
  | rid
  /-- `RCMD` (also written `RERR`): read `command` (R151). -/
  | rcmd
  /-- `RLEN`: read `length` (R152). -/
  | rlen
  /-- `RNP`: read `numParams` (R153). -/
  | rnp
  /-- `RPAR`: read one raw parameter byte (R154). -/
  | rpar (i : PortA)
  /-- `RCHK`: read the checksum register (R155). -/
  | rchk
  /-- `TGET.U8` (R171). -/
  | tgetU8 (off : PortA)
  /-- `TGET.S8` (R172). -/
  | tgetS8 (off : PortA)
  /-- `TGET.U16` (R173). -/
  | tgetU16 (off : PortA)
  /-- `TGET.S16` (R174). -/
  | tgetS16 (off : PortA)
  /-- `TGET.U32` (R175). -/
  | tgetU32 (off : PortA)
  /-- `TGET.S32` (R176). -/
  | tgetS32 (off : PortA)
  /-- `TSET.U8` (R181). -/
  | tsetU8 (off : PortA) (v : Word)
  /-- `TSET.S8` (R182). -/
  | tsetS8 (off : PortA) (v : Word)
  /-- `TSET.U16` (R183). -/
  | tsetU16 (off : PortA) (v : Word)
  /-- `TSET.S16` (R184). -/
  | tsetS16 (off : PortA) (v : Word)
  /-- `TSET.U32` (R185). -/
  | tsetU32 (off : PortA) (v : Word)
  /-- `TSET.S32` (R186). -/
  | tsetS32 (off : PortA) (v : Word)
  /-- `LOAD`: fill the table from storage (R211). -/
  | load (ans : StorageAnswer)
  /-- `SAVE`: send the persistent region to storage (R212). -/
  | save (ans : StorageAnswer)
  /-- `TRST`: reset the table to its initial values (R213). -/
  | trst
deriving DecidableEq, Repr

/-- Why a request has no operation. -/
inductive DecodeError where
  /-- The request word is one of the 228 reserved words of rule R92. -/
  | reservedOp
  /-- `SEQ` is longer than the 65535 bytes the port carries (R7, log 14). -/
  | seqTooLong
deriving DecidableEq, Repr

end Sys2Proof
end

