-- ==== Sys2Proof/WellFormed.lean ====
section
/-! DEFINITION. Which operations the ports can carry: the one operand whose type does not already fix its range is `SEQ` (R7). -/

namespace Sys2Proof

/-- The longest byte sequence port `SEQ` carries (R7: "a byte sequence of length 0 to 65535"). -/
def maxSeq : Nat := 65535

/-- Every operand fits its port (R7, R36).
`A` and `B` operands fit by their types, so only `SPAR`'s sequence is checked. -/
def Instr.wellFormed : Instr → Bool
  | .spar q => decide (q.length ≤ maxSeq)
  | .pb _ | .prst | .uck | .ser _ | .sid _ | .scmd _ => true
  | .rid | .rcmd | .rlen | .rnp | .rpar _ | .rchk => true
  | .tgetU8 _ | .tgetS8 _ | .tgetU16 _ | .tgetS16 _ | .tgetU32 _ | .tgetS32 _ => true
  | .tsetU8 _ _ | .tsetS8 _ _ | .tsetU16 _ _ | .tsetS16 _ _ | .tsetU32 _ _ | .tsetS32 _ _ => true
  | .load _ | .save _ | .trst => true

end Sys2Proof
end

