-- ==== Sys2Proof/Decode.lean ====
section
/-! DEFINITION. Decoding a request into its operation (R85 to R95), and the encoder written from the same tables. -/

namespace Sys2Proof

/-! ## The fields of the request word (R85) -/

/-- `op = OPW[7:3]`. -/
def opField (w : Byte) : BitVec 5 := w.extractLsb' 3 5

/-- `wc = OPW[2:1]`. -/
def wcField (w : Byte) : BitVec 2 := w.extractLsb' 1 2

/-- `s = OPW[0]`. -/
def sField (w : Byte) : BitVec 1 := w.extractLsb' 0 1

/-- `OPW[2:0]`, which must be `000` for every operation but `TGET` and `TSET` (R85). -/
def lowField (w : Byte) : BitVec 3 := w.extractLsb' 0 3

/-- A byte operand is `B[7:0]`; `B[31:8]` is ignored (R95, D32). -/
def byteOperand (b : Word) : Byte := b.setWidth 8

/-! ## Decoding -/

/-- An operation with one legal word: `OPW[2:0]` must be `000` (R85, R92). -/
def decodePlain (w : Byte) (i : Instr) : Except DecodeError Instr :=
  if lowField w = 0#3 then .ok i else .error .reservedOp

/-- `SPAR` reads `SEQ`, which carries at most 65535 bytes (R7, R87). -/
def decodeSpar (w : Byte) (q : List Byte) : Except DecodeError Instr :=
  if lowField w = 0#3 then
    if q.length ≤ maxSeq then .ok (.spar q) else .error .seqTooLong
  else .error .reservedOp

/-- The six `TGET` words by width code and signedness; `wc = 11` is reserved (R86, R91, R92). -/
def decodeTget (wc s : Nat) (a : PortA) : Except DecodeError Instr :=
  match wc, s with
  | 0, 0 => .ok (.tgetU8 a)
  | 0, 1 => .ok (.tgetS8 a)
  | 1, 0 => .ok (.tgetU16 a)
  | 1, 1 => .ok (.tgetS16 a)
  | 2, 0 => .ok (.tgetU32 a)
  | 2, 1 => .ok (.tgetS32 a)
  | _, _ => .error .reservedOp

/-- The six `TSET` words by width code and signedness; `wc = 11` is reserved (R86, R91, R92). -/
def decodeTset (wc s : Nat) (a : PortA) (b : Word) : Except DecodeError Instr :=
  match wc, s with
  | 0, 0 => .ok (.tsetU8 a b)
  | 0, 1 => .ok (.tsetS8 a b)
  | 1, 0 => .ok (.tsetU16 a b)
  | 1, 1 => .ok (.tsetS16 a b)
  | 2, 0 => .ok (.tsetU32 a b)
  | 2, 1 => .ok (.tsetS32 a b)
  | _, _ => .error .reservedOp

/-- The opcode map (R91): the operation a request selects, with the operands it reads (R87). -/
def decode (r : Request) : Except DecodeError Instr :=
  match (opField r.opw).toNat with
  | 0x01 => decodePlain r.opw (.pb (byteOperand r.b))
  | 0x02 => decodePlain r.opw .prst
  | 0x03 => decodePlain r.opw .uck
  | 0x04 => decodePlain r.opw (.ser r.a)
  | 0x05 => decodePlain r.opw (.sid (byteOperand r.b))
  | 0x06 => decodePlain r.opw (.scmd (byteOperand r.b))
  | 0x07 => decodeSpar r.opw r.seq
  | 0x08 => decodePlain r.opw .rid
  | 0x09 => decodePlain r.opw .rcmd
  | 0x0A => decodePlain r.opw .rlen
  | 0x0B => decodePlain r.opw .rnp
  | 0x0C => decodePlain r.opw (.rpar r.a)
  | 0x0D => decodePlain r.opw .rchk
  | 0x10 => decodeTget (wcField r.opw).toNat (sField r.opw).toNat r.a
  | 0x11 => decodeTset (wcField r.opw).toNat (sField r.opw).toNat r.a r.b
  | 0x12 => decodePlain r.opw (.load r.sresp)
  | 0x13 => decodePlain r.opw (.save r.sresp)
  | 0x14 => decodePlain r.opw .trst
  | _ => .error .reservedOp

/-! ## Encoding -/

/-- The request word of each operation (R91). -/
def opwOf : Instr → Byte
  | .pb _ => 0x08#8
  | .prst => 0x10#8
  | .uck => 0x18#8
  | .ser _ => 0x20#8
  | .sid _ => 0x28#8
  | .scmd _ => 0x30#8
  | .spar _ => 0x38#8
  | .rid => 0x40#8
  | .rcmd => 0x48#8
  | .rlen => 0x50#8
  | .rnp => 0x58#8
  | .rpar _ => 0x60#8
  | .rchk => 0x68#8
  | .tgetU8 _ => 0x80#8
  | .tgetS8 _ => 0x81#8
  | .tgetU16 _ => 0x82#8
  | .tgetS16 _ => 0x83#8
  | .tgetU32 _ => 0x84#8
  | .tgetS32 _ => 0x85#8
  | .tsetU8 _ _ => 0x88#8
  | .tsetS8 _ _ => 0x89#8
  | .tsetU16 _ _ => 0x8A#8
  | .tsetS16 _ _ => 0x8B#8
  | .tsetU32 _ _ => 0x8C#8
  | .tsetS32 _ _ => 0x8D#8
  | .load _ => 0x90#8
  | .save _ => 0x98#8
  | .trst => 0xA0#8

/-- The request that issues an operation: its word and the ports it reads (R87); the ports it does not read carry the
request's defaults. -/
def encode (i : Instr) : Request :=
  match i with
  | .pb b => { opw := opwOf i, b := b.setWidth 32 }
  | .sid b => { opw := opwOf i, b := b.setWidth 32 }
  | .scmd b => { opw := opwOf i, b := b.setWidth 32 }
  | .ser a => { opw := opwOf i, a := a }
  | .rpar a => { opw := opwOf i, a := a }
  | .spar q => { opw := opwOf i, seq := q }
  | .prst | .uck | .rid | .rcmd | .rlen | .rnp | .rchk | .trst => { opw := opwOf i }
  | .tgetU8 a | .tgetS8 a | .tgetU16 a | .tgetS16 a | .tgetU32 a | .tgetS32 a => { opw := opwOf i, a := a }
  | .tsetU8 a v | .tsetS8 a v | .tsetU16 a v | .tsetS16 a v | .tsetU32 a v | .tsetS32 a v =>
    { opw := opwOf i, a := a, b := v }
  | .load ans => { opw := opwOf i, sresp := ans }
  | .save ans => { opw := opwOf i, sresp := ans }

/-! ## The opcode table's words -/

/-- The request whose word is the low 8 bits of `w` and whose operand ports are zero, empty and `Failed` (log 17). -/
def tableRequest (w : Nat) : Request := { opw := BitVec.ofNat 8 w }

/-- The operation the decoder reads from a word of spec/opcode_table.json.
A request word has 8 bits, so a number of more bits is no request word. -/
def decodeTableWord (_nbits w : Nat) : Option Instr :=
  if w < 256 then (decode (tableRequest w)).toOption else none

end Sys2Proof
end

