-- ==== Sys2Proof/Config.lean ====
section
/-! DEFINITION. The parameters of rule R5, the device extensions of rule R6, and the events of rule R36 that a device may emit. -/

namespace Sys2Proof

/-- What the block sends on the event port `EV`, with the widths of rule R36. -/
inductive Event where
  /-- `SetBaud(rate)`, to the transport (R190). -/
  | setBaud (rate : Word)
  /-- `StoreLoad(off, n)`, to the storage collaborator (R210). -/
  | storeLoad (off n : BitVec 16)
  /-- `StoreSave(off, n, data)`, to the storage collaborator (R210). -/
  | storeSave (off n : BitVec 16) (data : List Byte)
deriving DecidableEq, Repr

/-- The device type: which `EXT_POPULATE`, `EXT_MODIFIED`, `EXT_RESET` extend the table unit (R6). -/
inductive DeviceType where
  /-- The base device: all three extensions are the identity, with no events (R6). -/
  | base
  /-- A derived device type: its extensions are the functions without a body below (R6, log 11). -/
  | derived (n : Nat)
  /-- A device whose hook performs a `TGET` or `TSET`: outside the model, refused by name (R192, I8, log 12). -/
  | reentrant
deriving DecidableEq, Repr

/-- The implementation parameters of rule R5 that a device fixes at construction. -/
structure Config where
  /-- `C`, capacity of the parameter buffer in bytes. -/
  capacity : Nat
  /-- `N`, `numCtlBytes`, length of the control table. -/
  numCtl : Nat
  /-- `P`, `numPersistentBytes`, length of the persistent part. -/
  numPersistent : Nat
  /-- `DEF_ID`, default of the device id. -/
  defId : Byte
  /-- `DEF_BAUD`, default of the baud-rate divisor. -/
  defBaud : Byte
  /-- `DEF_RDT`, default of the return-delay time. -/
  defRdt : Byte
  /-- The device type, which fixes the `EXT_*` functions (R6). -/
  device : DeviceType
deriving DecidableEq, Repr

namespace Config

/-- The ranges rule R5 allows: `0 ≤ C ≤ 253` and `6 ≤ P ≤ N ≤ 65536`. -/
abbrev legal (c : Config) : Prop :=
  c.capacity ≤ 253 ∧ 6 ≤ c.numPersistent ∧ c.numPersistent ≤ c.numCtl ∧ c.numCtl ≤ 65536

/-- `OFF_MODEL`: offset of the 2-byte model number (R5, D13). -/
def offModel : Nat := 0
/-- `OFF_FW`: offset of the firmware version (R5, D13). -/
def offFw : Nat := 2
/-- `OFF_ID`: offset of the device id (R5, D13). -/
def offId : Nat := 3
/-- `OFF_BAUD`: offset of the baud-rate divisor (R5, D13). -/
def offBaud : Nat := 4
/-- `OFF_RDT`: offset of the return-delay time (R5, D13). -/
def offRdt : Nat := 5
/-- `BAUD_NUM`: numerator of the bit-rate formula (R5, R190, I4). -/
def baudNum : Nat := 2000000

/-- `EXT_POPULATE` of derived device type `n` at draw number `draw`, as a function of the table and the offset.
A cell it leaves without a value is one it does not write (R10, log 11).
FREE (no body): OPEN in R5; a device that samples live state reads a fresh draw at each `TGET` (R177, I7, log 11). -/
opaque extPopulate (n draw : Nat) (tbl : Memory) (off : Nat) : Memory

/-- `EXT_MODIFIED` of derived device type `n`: the new table and the device's events.
A cell it leaves without a value is one it does not write (R10, log 11).
Its `List Event` (R6) may name any event; that no storage request among them is emitted is the model's reading of
R60, R72 and R210 (DEDUCED, log 20; `Sys2Proof.Machine.deviceEvents`).
FREE (no body): OPEN in R5 (R188, log 11). -/
opaque extModified (n : Nat) (tbl : Memory) (off : Nat) : Memory × List Event

/-- `EXT_RESET` of derived device type `n`, a function of the table alone.
A cell it leaves without a value is one it does not write (R10, log 11).
FREE (no body): OPEN in R5 (R6, R213, log 11). -/
opaque extReset (n : Nat) (tbl : Memory) : Memory

/-- The 16 bits of a storage event's count field for a `P` that they do not hold, which is `P = 65536`.
FREE (no body): the spec states no value there (R36 beside R5, R211 and R212; DESIGN CHOICE, log 15). -/
opaque wideCount (p : Nat) : BitVec 16

/-- The one instantiation of the OPEN parameters that `State.reset` uses: that of spec/95_test_vectors.md
(PRESUMED, the AX-12 family's sizes and factory values, I1, I2; log 4). -/
def vectors : Config where
  capacity := 4
  numCtl := 50
  numPersistent := 24
  defId := 1#8
  defBaud := 1#8
  defRdt := 250#8
  device := .base

end Config

end Sys2Proof
end

