-- ==== Sys2Proof/Machine/State.lean ====
section
/-! DEFINITION. The block's state (R20), the ports it drives (R36), the reasons a step can stop, and power-on reset (R37). -/

namespace Sys2Proof.Machine

/-- The parser state `pst` (R21, R90): six named states and the two unused codes 6 and 7. -/
inductive ParserState where
  | idle
  | sync1Seen
  | sync2Seen
  | idReceived
  | lengthReceived
  | receivingBody
  /-- Code 6: no operation writes it; a `PB` in it is a no-op (R119). -/
  | unused6
  /-- Code 7: no operation writes it; a `PB` in it is a no-op (R119). -/
  | unused7
deriving DecidableEq, Repr

/-- The fault causes, the values of `CAUSE` (R232, I15). -/
inductive Cause where
  /-- No fault. -/
  | none
  /-- A reserved request word (R233). -/
  | reservedOp
  /-- A table access out of bounds (R234). -/
  | tableBounds
  /-- A parameter index at or beyond `C` (R234). -/
  | paramIndex
  /-- A `⊥` read for a value that is computed or emitted (R235). -/
  | unwritten
deriving DecidableEq, Repr

/-- The output ports one step drives (R36), with their defaults (R88). -/
structure Ports where
  /-- `ST`, the `PB` result code. -/
  st : BitVec 2 := 0#2
  /-- `RES`, the result value. -/
  res : Word := 0#32
  /-- `OUT`, the bytes `SER` emits. -/
  out : List Byte := []
  /-- `EV`, the event list. -/
  ev : List Event := []
deriving DecidableEq, Repr

/-- The default outputs (R88): `ST = 0`, `RES = 0`, `OUT` and `EV` empty. -/
def Ports.idle : Ports := {}

/-- Why the machine stops with no next state. -/
inductive Fault where
  /-- Raised by `LOAD` and `SAVE` when the storage answer is not of a shape the storage contract admits:
  "the step has no outcome, so the block is stuck" (R210, I10).
  Safe: the spec gives no outcome (log 9). -/
  | storageAnswerShape
deriving DecidableEq, Repr

/-- Why the model gives no meaning. -/
inductive Refusal where
  /-- An arm of `exec` without a meaning.
  Safe: it stops. -/
  | notModelled (mnemonic : String)
  /-- Every operation of a device whose hook performs a `TGET` or `TSET`: "refused by name (`ReentrantHook`)" (R192, I8).
  Safe: it stops (log 12). -/
  | reentrantHook
  /-- Raised by `step` on a `SPAR` request whose `SEQ` is longer than the port carries (R7).
  Safe: no such request exists (log 14). -/
  | seqTooLong
deriving DecidableEq, Repr

/-- The state of rule R20, the output ports of the latest step, the host's pending inputs and the parameters. -/
structure State where
  /-- `pst`, the parser state (R21). -/
  pst : ParserState
  /-- `id`, the packet id (R22). -/
  id : Option Byte
  /-- `L`, the length register (R23). -/
  len : Option Byte
  /-- `cmd`, the command or error code (R24). -/
  cmd : Option Byte
  /-- `chk`, the checksum register and running sum (R25). -/
  chk : Option Byte
  /-- `idx`, the parameter index (R26). -/
  idx : Option Byte
  /-- `par`, the parameter buffer (R27). -/
  par : Memory
  /-- `tbl`, the control table (R29). -/
  tbl : Memory
  /-- `FAULT` (R32). -/
  fault : Bool
  /-- `CAUSE` (R32). -/
  cause : Cause
  /-- `FOP` (R32). -/
  fop : Byte
  /-- The output ports as the latest step drove them (R36, log 3). -/
  ports : Ports
  /-- What the host has issued and the block has not taken yet, oldest first (R33, R73, log 1). -/
  inputs : List HostInput
  /-- The number of draws a live-sampling device has taken: the model's own counter (I7, log 11). -/
  draws : Nat
  /-- The parameters of rule R5; no step writes them (R33, log 4). -/
  cfg : Config
deriving DecidableEq, Repr

/-- The outcome of a step of this machine. -/
abbrev Outcome := Host.Outcome State Fault Refusal

/-- How the body of an operation ends (R12). -/
inductive OpResult where
  /-- The next state, with its port outputs. -/
  | done (s : State)
  /-- `raise Fault(cause)`: nothing the operation wrote takes effect (R11, R236). -/
  | raise (c : Cause)
  /-- The step has no outcome (R210). -/
  | stuck (f : Fault)
deriving DecidableEq, Repr

/-- The state after power-on reset of a block with parameters `cfg` (R37, R260): `pst = Idle`, the fault record clear,
every register and cell `⊥`, no event. -/
def State.powerOn (cfg : Config) : State where
  pst := .idle
  id := none
  len := none
  cmd := none
  chk := none
  idx := none
  par := []
  tbl := []
  fault := false
  cause := .none
  fop := 0#8
  ports := Ports.idle
  inputs := []
  draws := 0
  cfg := cfg

/-- The machine right after reset (R37), with the parameters of spec/95_test_vectors.md (log 4). -/
def State.reset : State := State.powerOn Config.vectors

/-- `FAULT_O`, a continuous copy of `FAULT` (R36). -/
def State.faultO (s : State) : Bool := s.fault
/-- `CAUSE_O`, a continuous copy of `CAUSE` (R36). -/
def State.causeO (s : State) : Cause := s.cause
/-- `FOP_O`, a continuous copy of `FOP` (R36). -/
def State.fopO (s : State) : Byte := s.fop

end Sys2Proof.Machine
end

