-- ==== Sys2Proof/Machine/Flags.lean ====
section
/-! DEFINITION. The block has no condition flags (R35); this file holds its result and status codes: `ST` (R89), `pst` (R90), `CAUSE` (R232) and `SAVE`'s result (R99). -/

namespace Sys2Proof.Machine

/-- `ST` code of `Incomplete` (R89). -/
def stIncomplete : BitVec 2 := 0#2
/-- `ST` code of `Ok` (R89). -/
def stOk : BitVec 2 := 1#2
/-- `ST` code of `ChecksumMismatch` (R89). -/
def stChecksumMismatch : BitVec 2 := 2#2
/-- `ST` code of `TooMuchData` (R89). -/
def stTooMuchData : BitVec 2 := 3#2

/-- The result of the checksum byte (R118): a mismatch is reported whatever the capacity. -/
def frameResult (capacity : Nat) (idx : Byte) (checksumMatches : Bool) : BitVec 2 :=
  if checksumMatches then
    if idx.toNat ≤ capacity then stOk else stTooMuchData
  else stChecksumMismatch

/-- The 3-bit code of each parser state (R90). -/
def ParserState.code : ParserState → BitVec 3
  | .idle => 0#3
  | .sync1Seen => 1#3
  | .sync2Seen => 2#3
  | .idReceived => 3#3
  | .lengthReceived => 4#3
  | .receivingBody => 5#3
  | .unused6 => 6#3
  | .unused7 => 7#3

/-- The 4-bit code of each cause (R232); codes 5 to 15 are never produced. -/
def Cause.code : Cause → BitVec 4
  | .none => 0#4
  | .reservedOp => 1#4
  | .tableBounds => 2#4
  | .paramIndex => 3#4
  | .unwritten => 4#4

/-- `SAVE`'s result: 0 for `Ok`, 1 for `Failed` (R99). -/
def saveOk : Word := 0#32
/-- `SAVE`'s result for `Failed`, the source's `StorageFailure` (R99). -/
def saveFailed : Word := 1#32

end Sys2Proof.Machine
end

