-- ==== Sys2Proof/Machine/Ops.lean ====
section
/-! DEFINITION. The named operations over memory, ports, faults and hooks that every meaning is built from. -/

namespace Sys2Proof

/-! ## Byte-addressed memory (R60 to R62) -/

/-- The canonical form: addresses strictly rising.
An unlisted address reads `⊥` and an entry always holds a byte, so no entry equals what an unlisted address reads as (log 5). -/
abbrev Memory.wf (m : Memory) : Prop := m.Pairwise (fun x y => x.1 < y.1)

/-- Every listed address lies below `n`. -/
abbrev Memory.below (m : Memory) (n : Nat) : Prop := ∀ c ∈ m, c.1 < n

/-- The cell at address `a`: `none` is `⊥` (R10). -/
def Memory.read : Memory → Nat → Option Byte
  | [], _ => none
  | (k, v) :: rest, a => if k = a then some v else Memory.read rest a

/-- Store `some v` at address `a` (R10), keeping the canonical form. -/
def Memory.write : Memory → Nat → Byte → Memory
  | [], a, v => [(a, v)]
  | (k, w) :: rest, a, v =>
    if a < k then (a, v) :: (k, w) :: rest
    else if a = k then (a, v) :: rest
    else (k, w) :: Memory.write rest a v

/-- Store a byte sequence at `a`, `a + 1`, … in order. -/
def Memory.writeBytes : Memory → Nat → List Byte → Memory
  | m, _, [] => m
  | m, a, b :: bs => Memory.writeBytes (m.write a b) (a + 1) bs

/-- The memory of `n` cells whose cell `a` is `f a`. -/
def Memory.build (n : Nat) (f : Nat → Option Byte) : Memory :=
  (List.range n).filterMap (fun a => (f a).map (fun b => (a, b)))

/-- `n` cells, each `some 0`. -/
def Memory.zeroed (n : Nat) : Memory := Memory.build n (fun _ => some 0#8)

/-- The `n` cells of `m` after every cell that `w` gives a value is written with it.
A cell that `w` gives none keeps its content, because a write stores a value (R10); the table never resizes (R29). -/
def Memory.overlay (n : Nat) (m w : Memory) : Memory := Memory.build n (fun a => (w.read a).or (m.read a))

/-- Cells `0 .. n-1`. -/
def Memory.cells (m : Memory) (n : Nat) : List (Option Byte) := (List.range n).map m.read

/-- `TblRead(off, n)`: the little-endian assembly of `n` bytes, or `none` if one of them is `⊥` (R61). -/
def Memory.readLE (m : Memory) (off : Nat) : Nat → Option Nat
  | 0 => some 0
  | n + 1 =>
    match m.read off, Memory.readLE m (off + 1) n with
    | some b, some v => some (b.toNat + 256 * v)
    | _, _ => none

/-- The bytes `v[8k+7 : 8k]` for `k = 0 .. n-1` (R62). -/
def leBytes (n : Nat) (v : Word) : List Byte := (List.range n).map (fun k => v.extractLsb' (8 * k) 8)

/-- `TblWrite(off, n, trunc_{8n}(v))` (R62). -/
def Memory.writeLE (m : Memory) (off n : Nat) (v : Word) : Memory := m.writeBytes off (leBytes n v)

/-- The bytes of a sequence of cells, or `none` if one of them is `⊥` (R10). -/
def written : List (Option Byte) → Option (List Byte)
  | [] => some []
  | none :: _ => none
  | some b :: rest => (written rest).map (b :: ·)

namespace Machine

/-! ## Ports, faults and the shape of every operation -/

/-- Drive the output ports of this step. -/
def State.drive (s : State) (p : Ports) : State := { s with ports := p }

/-- Every output at its default (R88). -/
def State.quiet (s : State) : State := s.drive Ports.idle

/-- `emit`: append events to this step's event list (R11). -/
def State.emit (s : State) (evs : List Event) : State := s.drive { s.ports with ev := s.ports.ev ++ evs }

/-- TAKING A FAULT (R236): `FAULT <- 1`, `CAUSE <- c`, `FOP <- OPW`, the outputs at their defaults, and everything else as it
was before the operation.
There is no return from a fault (R237): only `powerOnReset` clears the record. -/
def State.enterFault (s : State) (c : Cause) (opw : Byte) : State :=
  { s with fault := true, cause := c, fop := opw, ports := Ports.idle }

/-- The state after power-on reset (R260, R37), from any state: `State.powerOn` with the same parameters.
The host's pending inputs are the host's and stay; the draw counter moves on, so that no draw is used twice (log 8). -/
def powerOnReset (s : State) : State :=
  { State.powerOn s.cfg with inputs := s.inputs, draws := s.draws + 1 }

/-- One operation with request word `opw` (R11, R12).
A device outside the model is refused by name (R192).
While `FAULT = 1` the request is ignored and the outputs take their defaults (R237, log 6).
Otherwise the body runs on the state with default outputs (R88), and a fault it raises discards all it wrote (R236). -/
def operate (opw : Byte) (s : State) (body : State → OpResult) : Outcome :=
  if s.cfg.device = .reentrant then .refused .reentrantHook
  else if s.fault then .next s.quiet
  else
    match body s.quiet with
    | .done s' => .next s'
    | .raise c => .next (s.enterFault c opw)
    | .stuck f => .fault f

/-- A reserved request word raises `ReservedOp` before any operand is read (R92, R233, R238). -/
def reservedWord (opw : Byte) (s : State) : Outcome := operate opw s (fun _ => .raise .reservedOp)

/-- A step in which the host issues nothing: the block waits, its outputs at their defaults (log 2). -/
def waitForHost (s : State) : Outcome := .next s.quiet

/-- A request the ports cannot carry is refused by name (R7, log 14). -/
def refuseRequest : Outcome := .refused .seqTooLong

/-- Take the host's next input, if it has issued one (R73). -/
def nextInput (s : State) : Option (HostInput × State) :=
  match s.inputs with
  | [] => none
  | x :: rest => some (x, { s with inputs := rest })

/-- Put a request where the block takes its next one. -/
def pushRequest (s : State) (r : Request) : State := { s with inputs := .op r :: s.inputs }

/-! ## Hooks (R6, R177, R188) -/

/-- `populateEntry(off)`: nothing in the base device, then the device type's `EXT_POPULATE` (R177).
A derived device's hook takes one draw (I7, log 11). -/
def populateEntry (off : Nat) (s : State) : State :=
  match s.cfg.device with
  | .base | .reentrant => s
  | .derived n =>
    { s with
      tbl := s.tbl.overlay s.cfg.numCtl (Config.extPopulate n s.draws s.tbl off)
      draws := s.draws + 1 }

/-- `rate = floor(BAUD_NUM / (sv + 1))` (R190, D20). -/
def baudRate (sv : Byte) : Word := BitVec.ofNat 32 (Config.baudNum / (sv.toNat + 1))

/-- The base baud-rate side effect: a `SetBaud` event exactly when the offset equals `OFF_BAUD`, at the rate of the byte
`tbl[OFF_BAUD]`, which was just written (R190, R272). -/
def baudEvents (off : Nat) (tbl : Memory) : List Event :=
  if off = Config.offBaud then (tbl.read Config.offBaud).toList.map (fun sv => .setBaud (baudRate sv)) else []

/-- Whether an event goes to the transport (R243). -/
def isTransportEvent : Event → Bool
  | .setBaud _ => true
  | .storeLoad _ _ => false
  | .storeSave _ _ _ => false

/-- The events of a device hook that go out: those to the transport.
Storage is reached by `LOAD` and `SAVE` only (R60, R72, R210), and R6's `List Event` does not say so (DEDUCED, log 20). -/
def deviceEvents (evs : List Event) : List Event := evs.filter isTransportEvent

/-- `entryModified(off)`: the base side effect, then the device type's `EXT_MODIFIED`, its events after the base's (R188). -/
def entryModified (off : Nat) (s : State) : State :=
  match s.cfg.device with
  | .base | .reentrant => s.emit (baudEvents off s.tbl)
  | .derived n =>
    let r := Config.extModified n s.tbl off
    State.emit { s with tbl := s.tbl.overlay s.cfg.numCtl r.1 } (baudEvents off s.tbl ++ deviceEvents r.2)

/-- The device type's `EXT_RESET`, run after the base reset (R6, R213). -/
def extReset (cfg : Config) (tbl : Memory) : Memory :=
  match cfg.device with
  | .base | .reentrant => tbl
  | .derived n => tbl.overlay cfg.numCtl (Config.extReset n tbl)

/-- The *TRST-body*: zero every cell, set the three well-known defaults, then the device defaults (R213). -/
def resetTable (cfg : Config) : Memory :=
  extReset cfg
    ((((Memory.zeroed cfg.numCtl).write Config.offId cfg.defId).write Config.offBaud cfg.defBaud).write
      Config.offRdt cfg.defRdt)

/-- The count field of this block's storage events: `P` in 16 bits (R36, R211, R212), free where they do not hold it
(log 15). -/
def storeCount (cfg : Config) : BitVec 16 :=
  if cfg.numPersistent < 65536 then BitVec.ofNat 16 cfg.numPersistent else Config.wideCount cfg.numPersistent

/-- The table a successful load leaves: zero every cell, then fill `[0, P)` from the answer (R211). -/
def loadedTable (cfg : Config) (d : List Byte) : Memory := (Memory.zeroed cfg.numCtl).writeBytes 0 d

end Machine

end Sys2Proof
end

