-- ==== Sys2Proof/Machine/Persist.lean ====
section
/-! DEFINITION. Persistence and initialisation of the control table: `LOAD`, `SAVE`, `TRST` (43_persistence.md). -/

namespace Sys2Proof.Machine

/-- `StoreLoad(0, P)`, then the answer's bytes over a zeroed table, or the TRST-body on `Failed` (R211).
No hook runs (D22).
An answer of a wrong shape has no outcome (R210, log 9). -/
def loadTable (ans : StorageAnswer) (s : State) : OpResult :=
  let s1 := s.emit [.storeLoad 0#16 (storeCount s.cfg)]
  match ans with
  | .okData d =>
    if d.length = s.cfg.numPersistent then .done { s1 with tbl := loadedTable s.cfg d }
    else .stuck .storageAnswerShape
  | .ok => .stuck .storageAnswerShape
  | .failed => .done { s1 with tbl := resetTable s.cfg }

/-- `LOAD` (R211). -/
def execLoad (ans : StorageAnswer) (s : State) : Outcome := operate (opwOf (.load ans)) s (loadTable ans)

/-- `StoreSave(0, P, tbl[0..P))`, and the collaborator's status on `RES` (R212, R99).
A `⊥` persistent byte raises `Unwritten` before any request goes out. -/
def saveTable (ans : StorageAnswer) (s : State) : OpResult :=
  match written (s.tbl.cells s.cfg.numPersistent) with
  | none => .raise .unwritten
  | some image =>
    let evs := [Event.storeSave 0#16 (storeCount s.cfg) image]
    match ans with
    | .ok => .done (s.drive { res := saveOk, ev := evs })
    | .failed => .done (s.drive { res := saveFailed, ev := evs })
    | .okData _ => .stuck .storageAnswerShape

/-- `SAVE` (R212). -/
def execSave (ans : StorageAnswer) (s : State) : Outcome := operate (opwOf (.save ans)) s (saveTable ans)

/-- The TRST-body (R213). -/
def initTable (s : State) : OpResult := .done { s with tbl := resetTable s.cfg }

/-- `TRST` (R213). -/
def execTrst (s : State) : Outcome := operate (opwOf .trst) s initTable

end Sys2Proof.Machine
end

