-- ==== Sys2Proof/Machine/Operands.lean ====
section
/-! DEFINITION. Values the operations compute from registers and ports: derived lengths (R28), extension (R95), checksum (R81) and the serialized packet (R146). -/

namespace Sys2Proof.Machine

/-- `numParams = max(0, L - 2)`, the declared parameter count (R28). -/
def numParams (l : Byte) : Nat := l.toNat - 2

/-- `length = numParams + 2` (R28). -/
def lengthOf (l : Byte) : Nat := numParams l + 2

/-- `stored = min(numParams, C)`, the parameter bytes held in `par` (R28). -/
def stored (capacity : Nat) (l : Byte) : Nat := min (numParams l) capacity

/-- `zext_32` of a byte (R9, R95). -/
def zextByte (b : Byte) : Word := b.setWidth 32

/-- A count on `RES` (R95). -/
def countWord (n : Nat) : Word := BitVec.ofNat 32 n

/-- `zext_32` or `sext_32` of an `8n`-bit value (R9, R95). -/
def extend (n : Nat) (signed : Bool) (v : Nat) : Word :=
  if signed then (BitVec.ofNat (8 * n) v).signExtend 32 else (BitVec.ofNat (8 * n) v).setWidth 32

/-- The sum of a byte sequence, on unbounded integers (R9). -/
def sumBytes : List Byte → Nat
  | [] => 0
  | b :: bs => b.toNat + sumBytes bs

/-- `(~(sum mod 256)) & 0xFF` (R81). -/
def checksumOf (sum : Nat) : Byte := ~~~(BitVec.ofNat 8 sum)

/-- The bytes `SER` emits, in order, each a cell that may be `⊥` (R146).
When `L` is `⊥` the fourth byte, `length`, is `⊥`, and no later byte is ever reached (log 13). -/
def packetCells (s : State) : List (Option Byte) :=
  match s.len with
  | some l =>
    [some 0xFF#8, some 0xFF#8, s.id, some (BitVec.ofNat 8 (lengthOf l)), s.cmd]
      ++ s.par.cells (stored s.cfg.capacity l) ++ [s.chk]
  | none => [some 0xFF#8, some 0xFF#8, s.id, none]

end Sys2Proof.Machine
end

