-- ==== Sys2Proof/Machine/Receive.lean ====
section
/-! DEFINITION. The framer's receive operations `PB` and `PRST` (40_framer_receive.md). -/

namespace Sys2Proof.Machine

/-- `chk <- (chk + b) mod 256`, which reads `chk` (R114 to R116). -/
def accumulate (b : Byte) (s : State) (k : Byte → OpResult) : OpResult :=
  match s.chk with
  | some c => k (c + b)
  | none => .raise .unwritten

/-- `ReceivingBody`, parameter byte (R116). -/
def receiveParam (b i : Byte) (s : State) : OpResult :=
  accumulate b s fun sum =>
    .done { s with
      chk := some sum
      par := if i.toNat < s.cfg.capacity then s.par.write i.toNat b else s.par
      idx := some (i + 1#8) }

/-- `ReceivingBody`, checksum byte (R117): after it `chk = b` whether or not it matched. -/
def receiveChecksum (b i : Byte) (s : State) : OpResult :=
  match s.chk with
  | some c =>
    let f := ~~~c
    .done (State.drive { s with pst := .idle, chk := some (if f = b then f else b) }
      { st := frameResult s.cfg.capacity i (f == b) })
  | none => .raise .unwritten

/-- `PB(b)`, by parser state (R110 to R119). -/
def receiveByte (b : Byte) (s : State) : OpResult :=
  match s.pst with
  | .idle => .done (if b = 0xFF#8 then { s with pst := .sync1Seen } else s)
  | .sync1Seen => .done (if b = 0xFF#8 then { s with pst := .sync2Seen } else { s with pst := .idle })
  | .sync2Seen =>
    .done (if b = 0xFF#8 then s else { s with id := some b, chk := some b, pst := .idReceived })
  | .idReceived =>
    accumulate b s fun sum => .done { s with len := some b, chk := some sum, pst := .lengthReceived }
  | .lengthReceived =>
    accumulate b s fun sum =>
      .done { s with cmd := some b, chk := some sum, idx := some 0#8, pst := .receivingBody }
  | .receivingBody =>
    match s.len, s.idx with
    | some l, some i => if i.toNat < numParams l then receiveParam b i s else receiveChecksum b i s
    | _, _ => .raise .unwritten
  | .unused6 => .done s
  | .unused7 => .done s

/-- `PB` (R110). -/
def execPb (b : Byte) (s : State) : Outcome := operate (opwOf (.pb b)) s (receiveByte b)

/-- `pst <- Idle` (R120). -/
def abandonFrame (s : State) : OpResult := .done { s with pst := .idle }

/-- `PRST` (R120). -/
def execPrst (s : State) : Outcome := operate (opwOf .prst) s abandonFrame

end Sys2Proof.Machine
end

