-- ==== Sys2Proof/Machine/Table.lean ====
section
/-! DEFINITION. The control-table accessors `TGET` and `TSET` (42_control_table.md). -/

namespace Sys2Proof.Machine

/-- `TGET(n, s)` (R170): bounds, then the populate hook, then the read, then the extension. -/
def tableGet (n : Nat) (signed : Bool) (off : PortA) (s : State) : OpResult :=
  if s.cfg.numCtl < off.toNat + n then .raise .tableBounds
  else
    let s1 := populateEntry off.toNat s
    match s1.tbl.readLE off.toNat n with
    | some v => .done (s1.drive { res := extend n signed v })
    | none => .raise .unwritten

/-- `TSET(n, s)` (R180): bounds, then the write, then the modified hook.
The signedness has no effect (D18). -/
def tableSet (n : Nat) (off : PortA) (v : Word) (s : State) : OpResult :=
  if s.cfg.numCtl < off.toNat + n then .raise .tableBounds
  else .done (entryModified off.toNat { s with tbl := s.tbl.writeLE off.toNat n v })

/-- `TGET.U8` (R171). -/
def execTgetU8 (off : PortA) (s : State) : Outcome := operate (opwOf (.tgetU8 off)) s (tableGet 1 false off)
/-- `TGET.S8` (R172). -/
def execTgetS8 (off : PortA) (s : State) : Outcome := operate (opwOf (.tgetS8 off)) s (tableGet 1 true off)
/-- `TGET.U16` (R173). -/
def execTgetU16 (off : PortA) (s : State) : Outcome := operate (opwOf (.tgetU16 off)) s (tableGet 2 false off)
/-- `TGET.S16` (R174). -/
def execTgetS16 (off : PortA) (s : State) : Outcome := operate (opwOf (.tgetS16 off)) s (tableGet 2 true off)
/-- `TGET.U32` (R175). -/
def execTgetU32 (off : PortA) (s : State) : Outcome := operate (opwOf (.tgetU32 off)) s (tableGet 4 false off)
/-- `TGET.S32` (R176). -/
def execTgetS32 (off : PortA) (s : State) : Outcome := operate (opwOf (.tgetS32 off)) s (tableGet 4 true off)

/-- `TSET.U8` (R181). -/
def execTsetU8 (off : PortA) (v : Word) (s : State) : Outcome := operate (opwOf (.tsetU8 off v)) s (tableSet 1 off v)
/-- `TSET.S8` (R182). -/
def execTsetS8 (off : PortA) (v : Word) (s : State) : Outcome := operate (opwOf (.tsetS8 off v)) s (tableSet 1 off v)
/-- `TSET.U16` (R183). -/
def execTsetU16 (off : PortA) (v : Word) (s : State) : Outcome := operate (opwOf (.tsetU16 off v)) s (tableSet 2 off v)
/-- `TSET.S16` (R184). -/
def execTsetS16 (off : PortA) (v : Word) (s : State) : Outcome := operate (opwOf (.tsetS16 off v)) s (tableSet 2 off v)
/-- `TSET.U32` (R185). -/
def execTsetU32 (off : PortA) (v : Word) (s : State) : Outcome := operate (opwOf (.tsetU32 off v)) s (tableSet 4 off v)
/-- `TSET.S32` (R186). -/
def execTsetS32 (off : PortA) (v : Word) (s : State) : Outcome := operate (opwOf (.tsetS32 off v)) s (tableSet 4 off v)

end Sys2Proof.Machine
end

