-- ==== Sys2Proof/Machine/Transmit.lean ====
section
/-! DEFINITION. The framer's setters, checksum, serializer and read accessors (41_framer_transmit.md). -/

namespace Sys2Proof.Machine

/-! ## Setters -/

/-- `id <- b` (R140). -/
def setId (b : Byte) (s : State) : OpResult := .done { s with id := some b }

/-- `SID` (R140). -/
def execSid (b : Byte) (s : State) : Outcome := operate (opwOf (.sid b)) s (setId b)

/-- `cmd <- b` (R141). -/
def setCommand (b : Byte) (s : State) : OpResult := .done { s with cmd := some b }

/-- `SCMD` (R141). -/
def execScmd (b : Byte) (s : State) : Outcome := operate (opwOf (.scmd b)) s (setCommand b)

/-- The first `n = min(k, C)` bytes of the sequence go to `par[0..n)`, and `L <- n + 2` (R142). -/
def setParams (q : List Byte) (s : State) : OpResult :=
  .done { s with
    par := s.par.writeBytes 0 (q.take s.cfg.capacity)
    len := some (BitVec.ofNat 8 (min q.length s.cfg.capacity + 2)) }

/-- `SPAR` (R142). -/
def execSpar (q : List Byte) (s : State) : Outcome := operate (opwOf (.spar q)) s (setParams q)

/-! ## Checksum and serializer -/

/-- The checksum of the current packet: of `id`, the derived length, `cmd` and the stored parameter bytes (R145, D34). -/
def packetChecksum (s : State) : Option Byte :=
  match s.id, s.len, s.cmd with
  | some i, some l, some c =>
    (written (s.par.cells (stored s.cfg.capacity l))).map fun ps =>
      checksumOf (i.toNat + lengthOf l + c.toNat + sumBytes ps)
  | _, _, _ => none

/-- `chk` takes the packet's checksum; a `⊥` among the values it sums raises `Unwritten` (R145). -/
def updateChecksum (s : State) : OpResult :=
  match packetChecksum s with
  | some v => .done { s with chk := some v }
  | none => .raise .unwritten

/-- `UCK` (R145). -/
def execUck (s : State) : Outcome := operate (opwOf .uck) s updateChecksum

/-- The first `c = min(maxLen, 6 + stored)` bytes of the packet on `OUT`, and `c` on `RES` (R146).
Only the bytes emitted are read (D35). -/
def serialize (maxLen : PortA) (s : State) : OpResult :=
  match written ((packetCells s).take maxLen.toNat) with
  | some bytes => .done (s.drive { res := countWord bytes.length, out := bytes })
  | none => .raise .unwritten

/-- `SER` (R146). -/
def execSer (maxLen : PortA) (s : State) : Outcome := operate (opwOf (.ser maxLen)) s (serialize maxLen)

/-! ## Read accessors -/

/-- Drive `RES` with a value computed from a register; a `⊥` register raises `Unwritten` (R150 to R155). -/
def readOut (r : Option Byte) (f : Byte → Word) (s : State) : OpResult :=
  match r with
  | some b => .done (s.drive { res := f b })
  | none => .raise .unwritten

/-- `RES <- zext_32(id)` (R150). -/
def readId (s : State) : OpResult := readOut s.id zextByte s

/-- `RID` (R150). -/
def execRid (s : State) : Outcome := operate (opwOf .rid) s readId

/-- `RES <- zext_32(cmd)` (R151). -/
def readCommand (s : State) : OpResult := readOut s.cmd zextByte s

/-- `RCMD` (R151). -/
def execRcmd (s : State) : Outcome := operate (opwOf .rcmd) s readCommand

/-- `RES <- max(0, L - 2) + 2` (R152). -/
def readLength (s : State) : OpResult := readOut s.len (fun l => countWord (lengthOf l)) s

/-- `RLEN` (R152). -/
def execRlen (s : State) : Outcome := operate (opwOf .rlen) s readLength

/-- `RES <- max(0, L - 2)` (R153). -/
def readNumParams (s : State) : OpResult := readOut s.len (fun l => countWord (numParams l)) s

/-- `RNP` (R153). -/
def execRnp (s : State) : Outcome := operate (opwOf .rnp) s readNumParams

/-- The index is checked against `C`, then the cell is read (R154, R238). -/
def readParam (i : PortA) (s : State) : OpResult :=
  if s.cfg.capacity ≤ i.toNat then .raise .paramIndex else readOut (s.par.read i.toNat) zextByte s

/-- `RPAR` (R154). -/
def execRpar (i : PortA) (s : State) : Outcome := operate (opwOf (.rpar i)) s (readParam i)

/-- `RES <- zext_32(chk)` (R155). -/
def readChecksum (s : State) : OpResult := readOut s.chk zextByte s

/-- `RCHK` (R155). -/
def execRchk (s : State) : Outcome := operate (opwOf .rchk) s readChecksum

end Sys2Proof.Machine
end

