-- ==== Sys2Proof/Machine/Dispatch.lean ====
section
/-! DEFINITION. The meaning of each operation (R91): one arm per constructor, one direct call each. -/

namespace Sys2Proof.Machine

/-- What the block does with an operation in a state. -/
def exec (i : Instr) (s : State) : Host.Outcome State Fault Refusal :=
  match i with
  | .pb b => Sys2Proof.Machine.execPb b s
  | .prst => Sys2Proof.Machine.execPrst s
  | .uck => Sys2Proof.Machine.execUck s
  | .ser maxLen => Sys2Proof.Machine.execSer maxLen s
  | .sid b => Sys2Proof.Machine.execSid b s
  | .scmd b => Sys2Proof.Machine.execScmd b s
  | .spar q => Sys2Proof.Machine.execSpar q s
  | .rid => Sys2Proof.Machine.execRid s
  | .rcmd => Sys2Proof.Machine.execRcmd s
  | .rlen => Sys2Proof.Machine.execRlen s
  | .rnp => Sys2Proof.Machine.execRnp s
  | .rpar index => Sys2Proof.Machine.execRpar index s
  | .rchk => Sys2Proof.Machine.execRchk s
  | .tgetU8 off => Sys2Proof.Machine.execTgetU8 off s
  | .tgetS8 off => Sys2Proof.Machine.execTgetS8 off s
  | .tgetU16 off => Sys2Proof.Machine.execTgetU16 off s
  | .tgetS16 off => Sys2Proof.Machine.execTgetS16 off s
  | .tgetU32 off => Sys2Proof.Machine.execTgetU32 off s
  | .tgetS32 off => Sys2Proof.Machine.execTgetS32 off s
  | .tsetU8 off v => Sys2Proof.Machine.execTsetU8 off v s
  | .tsetS8 off v => Sys2Proof.Machine.execTsetS8 off v s
  | .tsetU16 off v => Sys2Proof.Machine.execTsetU16 off v s
  | .tsetS16 off v => Sys2Proof.Machine.execTsetS16 off v s
  | .tsetU32 off v => Sys2Proof.Machine.execTsetU32 off v s
  | .tsetS32 off v => Sys2Proof.Machine.execTsetS32 off v s
  | .load ans => Sys2Proof.Machine.execLoad ans s
  | .save ans => Sys2Proof.Machine.execSave ans s
  | .trst => Sys2Proof.Machine.execTrst s

end Sys2Proof.Machine
end

