-- ==== Sys2Proof/Machine/Step.lean ====
section
/-! DEFINITION. One step of the block: take the host's next input and run it (R11, R73, R260). -/

namespace Sys2Proof.Machine

/-- One step: nothing issued, `RST` asserted, an operation, a reserved word, or a request the ports cannot carry. -/
def step (s : State) : Host.Outcome State Fault Refusal :=
  match nextInput s with
  | none => waitForHost s
  | some (.rst, s') => .next (powerOnReset s')
  | some (.op r, s') =>
    match decode r with
    | .ok i => exec i s'
    | .error .reservedOp => reservedWord r.opw s'
    | .error .seqTooLong => refuseRequest

/-- `s` with the table's word issued as the block's next request, before whatever the host had issued (log 16, log 17). -/
def State.withFetchWord (s : State) (_nbits w : Nat) : State := pushRequest s (tableRequest w)

end Sys2Proof.Machine
end

