-- ==== Sys2Proof/Safety.lean ====
section
/-! DEFINITION. What counts as a safe state and a safe run: the terms the statements use. -/

namespace Sys2Proof.Machine

/-- The block takes operations: it has not faulted (R237) and its device type is one the model admits (R192). -/
abbrev State.Ready (s : State) : Prop := s.fault = false ∧ s.cfg.device ≠ .reentrant

/-- The registers a frame in progress relies on hold a value: "every path into `IdReceived`, `LengthReceived` and
`ReceivingBody` first writes what those states read" (R110). -/
abbrev State.MidFrameWritten (s : State) : Prop :=
  match s.pst with
  | .idReceived => s.chk.isSome
  | .lengthReceived => s.chk.isSome ∧ s.len.isSome
  | .receivingBody => s.chk.isSome ∧ s.len.isSome ∧ s.idx.isSome
  | _ => True

/-- The invariant of every state a run of a legally configured block reaches (R5, R21, R26, R27, R29, R32, R110). -/
structure State.Inv (s : State) : Prop where
  /-- The parameters are in the ranges of rule R5. -/
  cfg_legal : s.cfg.legal
  /-- The parameter buffer is in canonical form and has no cell at index `≥ C` (R27). -/
  par_wf : s.par.wf
  par_below : s.par.below s.cfg.capacity
  /-- The table is in canonical form and has no cell at offset `≥ N` (R29). -/
  tbl_wf : s.tbl.wf
  tbl_below : s.tbl.below s.cfg.numCtl
  /-- `pst` is one of the six states (R21). -/
  pst_legal : s.pst ≠ .unused6 ∧ s.pst ≠ .unused7
  /-- `idx` is at most 253 (R26). -/
  idx_range : ∀ i, s.idx = some i → i.toNat ≤ 253
  /-- `FAULT` is set exactly when a cause is recorded, and `FOP` is written only with it (R32, R236). -/
  fault_cause : s.fault = true ↔ s.cause ≠ .none
  fop_clear : s.fault = false → s.fop = 0#8
  /-- A frame in progress has its registers (R110). -/
  mid_frame : s.MidFrameWritten

/-- A safe run takes `k` steps from `s` and ends without a recorded fault. -/
def SafeRun (k : Nat) (s s' : State) : Prop :=
  Host.Core.run { State := State, Fault := Fault, Refusal := Refusal, step := step, reset := State.reset } k s = .next s'
    ∧ s'.fault = false

/-- The data of the latest successful `SAVE`, after one more operation `i` that left state `s'`. -/
def savedImage (last : Option (List Byte)) (i : Instr) (s' : State) : Option (List Byte) :=
  match i, s'.fault, s'.ports.ev with
  | .save .ok, false, [.storeSave _ _ data] => some data
  | _, _, _ => last

/-- The optional assumption `STORE_COHERENT` on a run, given as its operations and the states they left: a successful
`StoreLoad` returns the data of the latest successful `StoreSave`, if there has been one (R74, D23).
Nothing in the model assumes it. -/
def StoreCoherent : Option (List Byte) → List (Instr × State) → Prop
  | _, [] => True
  | last, (i, s') :: rest =>
    (match i, last with
      | .load (.okData d), some data => d = data
      | _, _ => True)
    ∧ StoreCoherent (savedImage last i s') rest

end Sys2Proof.Machine
end

