-- ==== Sys2Proof/Certificates/Slice0/Obligations.lean ====
section
/-! DEFINITION. The statements for the provers, from the numbered rules of spec/. -/

open Sys2Proof Sys2Proof.Machine

/-! ## Terms of the statements, written from the spec and not from the model's operations -/

namespace Sys2Proof.Claims

/-- The request words rule R92 reserves, by its three bullets: `op = OPW[7:3]`, `OPW[2:0]`, `wc = OPW[2:1]`. -/
abbrev Reserved (w : Byte) : Prop :=
  let op := w.toNat / 8
  let low := w.toNat % 8
  let wc := w.toNat / 2 % 4
  (op = 0x00 ∨ op = 0x0E ∨ op = 0x0F ∨ 0x15 ≤ op) ∨
  (((0x01 ≤ op ∧ op ≤ 0x0D) ∨ (0x12 ≤ op ∧ op ≤ 0x14)) ∧ low ≠ 0) ∨
  ((op = 0x10 ∨ op = 0x11) ∧ wc = 3)

/-- Two requests agree on the ports that operation `i` reads (R87). -/
def SamePorts (i : Instr) (r r' : Request) : Prop :=
  match i with
  | .pb _ | .sid _ | .scmd _ => r.b.extractLsb' 0 8 = r'.b.extractLsb' 0 8
  | .ser _ | .rpar _ => r.a = r'.a
  | .tgetU8 _ | .tgetS8 _ | .tgetU16 _ | .tgetS16 _ | .tgetU32 _ | .tgetS32 _ => r.a = r'.a
  | .tsetU8 _ _ | .tsetS8 _ _ | .tsetU16 _ _ | .tsetS16 _ _ | .tsetU32 _ _ | .tsetS32 _ _ => r.a = r'.a ∧ r.b = r'.b
  | .spar _ => r.seq = r'.seq
  | .load _ | .save _ => r.sresp = r'.sresp
  | .prst | .uck | .rid | .rcmd | .rlen | .rnp | .rchk | .trst => True

/-- The operations of the framer unit (R3 (2) to (4), R110 to R155); the others are the control-table unit's. -/
def IsFramer : Instr → Bool
  | .pb _ | .prst | .uck | .ser _ | .sid _ | .scmd _ | .spar _ => true
  | .rid | .rcmd | .rlen | .rnp | .rpar _ | .rchk => true
  | .tgetU8 _ | .tgetS8 _ | .tgetU16 _ | .tgetS16 _ | .tgetU32 _ | .tgetS32 _ => false
  | .tsetU8 _ _ | .tsetS8 _ _ | .tsetU16 _ _ | .tsetS16 _ _ | .tsetU32 _ _ | .tsetS32 _ _ => false
  | .load _ | .save _ | .trst => false

/-- The `TGET` operations with their size in bytes and their signedness (R86, R91). -/
def gets : List (Nat × Bool × (PortA → Instr)) :=
  [(1, false, .tgetU8), (1, true, .tgetS8), (2, false, .tgetU16), (2, true, .tgetS16), (4, false, .tgetU32),
    (4, true, .tgetS32)]

/-- The `TSET` operations with their size in bytes (R86, R91). -/
def sets : List (Nat × (PortA → Word → Instr)) :=
  [(1, .tsetU8), (1, .tsetS8), (2, .tsetU16), (2, .tsetS16), (4, .tsetU32), (4, .tsetS32)]

/-- The fault entry of rule R236 on the state before the operation. -/
def faulted (s : State) (c : Cause) (w : Byte) : State :=
  { s with fault := true, cause := c, fop := w, ports := { st := 0, res := 0, out := [], ev := [] } }

/-- `Σ_k b_k * 256^k` of a byte sequence (R61). -/
def tableValue (bs : List Byte) : Nat := ((List.range bs.length).map (fun k => (bs.getD k 0).toNat * 256 ^ k)).sum

/-- `zext_32` or `sext_32` of an `8n`-bit value, by its integer value (R9). -/
def extended (n : Nat) (signed : Bool) (v : Nat) : Word :=
  if signed && decide (2 ^ (8 * n - 1) ≤ v) then BitVec.ofInt 32 ((v : Int) - 2 ^ (8 * n)) else BitVec.ofNat 32 v

/-- `255 - ((id + length + command + Σ param[i]) mod 256)` (R81). -/
def checksum (x l c : Nat) (ps : List Byte) : Nat := 255 - (x + l + c + (ps.map BitVec.toNat).sum) % 256

/-- `FEED` (R98): one `PB` per byte, in order; the `ST` of each, and the state at the end. -/
def feed : List Byte → State → Option (List (BitVec 2) × State)
  | [], s => some ([], s)
  | b :: bs, s =>
    match exec (.pb b) s with
    | .next s1 => (feed bs s1).map (fun r => (s1.ports.st :: r.1, r.2))
    | _ => none

/-- The wire frame (R80) with the given length byte and checksum byte. -/
def frame (x l c : Byte) (ps : List Byte) (w : Byte) : List Byte := [0xFF, 0xFF, x, l, c] ++ ps ++ [w]

/-- Apply a change to the next state of an outcome. -/
def mapNext (f : State → State) : Outcome → Outcome
  | .next s => .next (f s)
  | .fault r => .fault r
  | .refused r => .refused r

/-- Whether the operation writes `ST`, `RES`, `OUT`, `EV` (R87, third column). -/
def writesPorts : Instr → Bool × Bool × Bool × Bool
  | .pb _ => (true, false, false, false)
  | .prst | .uck | .sid _ | .scmd _ | .spar _ | .trst => (false, false, false, false)
  | .ser _ => (false, true, true, false)
  | .rid | .rcmd | .rlen | .rnp | .rpar _ | .rchk => (false, true, false, false)
  | .tgetU8 _ | .tgetS8 _ | .tgetU16 _ | .tgetS16 _ | .tgetU32 _ | .tgetS32 _ => (false, true, false, false)
  | .tsetU8 _ _ | .tsetS8 _ _ | .tsetU16 _ _ | .tsetS16 _ _ | .tsetU32 _ _ | .tsetS32 _ _ => (false, false, false, true)
  | .load _ => (false, false, false, true)
  | .save _ => (false, true, false, true)

/-- The base device's table after a reset (R213), cell by cell. -/
def resetByte (cfg : Config) (a : Nat) : Option Byte :=
  if cfg.numCtl ≤ a then none
  else if a = 3 then some cfg.defId
  else if a = 4 then some cfg.defBaud
  else if a = 5 then some cfg.defRdt
  else some 0

end Sys2Proof.Claims

open Sys2Proof.Claims

/-! ## Encoding and decoding -/

/-- The opcode map of rule R91 with the operands of rules R87 and R95, word by word. -/
def Obligations.SpecWordsDecode : Prop :=
  ∀ (a : PortA) (b : Word) (q : List Byte) (ans : StorageAnswer), q.length ≤ 65535 →
    ∀ req : Byte → Request, (req = fun w => { opw := w, a := a, b := b, seq := q, sresp := ans }) →
    decode (req 0x08) = .ok (.pb (b.extractLsb' 0 8)) ∧
    decode (req 0x10) = .ok .prst ∧
    decode (req 0x18) = .ok .uck ∧
    decode (req 0x20) = .ok (.ser a) ∧
    decode (req 0x28) = .ok (.sid (b.extractLsb' 0 8)) ∧
    decode (req 0x30) = .ok (.scmd (b.extractLsb' 0 8)) ∧
    decode (req 0x38) = .ok (.spar q) ∧
    decode (req 0x40) = .ok .rid ∧
    decode (req 0x48) = .ok .rcmd ∧
    decode (req 0x50) = .ok .rlen ∧
    decode (req 0x58) = .ok .rnp ∧
    decode (req 0x60) = .ok (.rpar a) ∧
    decode (req 0x68) = .ok .rchk ∧
    decode (req 0x80) = .ok (.tgetU8 a) ∧
    decode (req 0x81) = .ok (.tgetS8 a) ∧
    decode (req 0x82) = .ok (.tgetU16 a) ∧
    decode (req 0x83) = .ok (.tgetS16 a) ∧
    decode (req 0x84) = .ok (.tgetU32 a) ∧
    decode (req 0x85) = .ok (.tgetS32 a) ∧
    decode (req 0x88) = .ok (.tsetU8 a b) ∧
    decode (req 0x89) = .ok (.tsetS8 a b) ∧
    decode (req 0x8A) = .ok (.tsetU16 a b) ∧
    decode (req 0x8B) = .ok (.tsetS16 a b) ∧
    decode (req 0x8C) = .ok (.tsetU32 a b) ∧
    decode (req 0x8D) = .ok (.tsetS32 a b) ∧
    decode (req 0x90) = .ok (.load ans) ∧
    decode (req 0x98) = .ok (.save ans) ∧
    decode (req 0xA0) = .ok .trst

/-- Rule R92: exactly the words of its three bullets are reserved, 228 of the 256, and on a block that takes operations each
raises `Fault(ReservedOp)` and changes nothing else, whatever its operands. -/
def Obligations.ReservedWordsFault : Prop :=
  (∀ r : Request, decode r = .error .reservedOp ↔ Reserved r.opw) ∧
  ((List.range 256).filter (fun n => decide (Reserved (BitVec.ofNat 8 n)))).length = 228 ∧
  ∀ (s : State) (r : Request) (rest : List HostInput), s.Ready → s.inputs = .op r :: rest → Reserved r.opw →
    step s = .next (faulted { s with inputs := rest } .reservedOp r.opw)

/-- Decoding an encoded well-formed operation gives it back, with every operand at every value the ports carry. -/
def Obligations.DecodeOfEncode : Prop := ∀ i : Instr, i.wellFormed = true → decode (encode i) = .ok i

/-- Rule R87, the ports each operation reads: a request decodes to an operation that depends on its word and on those ports
alone, the encoder gives the word back, and what decodes is well-formed. -/
def Obligations.DecodeReadsListedPorts : Prop :=
  ∀ (r r' : Request) (i : Instr), decode r = .ok i →
    (encode i).opw = r.opw ∧ SamePorts i r (encode i) ∧ i.wellFormed = true ∧
    (r'.opw = r.opw → SamePorts i r r' → decode r' = .ok i)

/-! ## The step -/

/-- A step on a request that decodes runs exactly the decoded operation, on the state with the request taken; that requests wait in a queue is the
model's choice (log 1). -/
def Obligations.StepRunsDecodedOperation : Prop :=
  ∀ (s : State) (r : Request) (rest : List HostInput) (i : Instr), s.inputs = .op r :: rest → decode r = .ok i →
    step s = exec i { s with inputs := rest }

/-- The model's own conventions around a request (logs 2 and 14): with no input the block waits, and a `SPAR` request with a
sequence longer than port `SEQ` carries is refused by name. -/
def Obligations.StepWithoutOperation : Prop :=
  (∀ s : State, s.inputs = [] → step s = .next { s with ports := {} }) ∧
  (∀ (s : State) (r : Request) (rest : List HostInput), s.inputs = .op r :: rest → r.opw = 0x38 →
    65535 < r.seq.length → step s = .refused .seqTooLong)

/-- Rules R37 and R260: from any state, asserting `RST` leaves `pst = Idle`, the fault record clear, every register and every
cell `⊥`, and emits no event; that the inputs the host has still pending are not touched is the model's choice (log 8). -/
def Obligations.PowerOnReset : Prop :=
  ∀ (s : State) (rest : List HostInput), s.inputs = .rst :: rest →
    ∃ t, step s = .next t ∧ t.pst = .idle ∧
      t.id = none ∧ t.len = none ∧ t.cmd = none ∧ t.chk = none ∧ t.idx = none ∧
      (∀ i, t.par.read i = none) ∧ (∀ a, t.tbl.read a = none) ∧
      t.fault = false ∧ t.cause = .none ∧ t.fop = 0 ∧ t.ports.ev = [] ∧
      t.cfg = s.cfg ∧ t.inputs = rest

/-- Rule R37 of the fixed reset state. -/
def Obligations.ResetValues : Prop :=
  let t := State.reset
  t.pst = .idle ∧ t.id = none ∧ t.len = none ∧ t.cmd = none ∧ t.chk = none ∧ t.idx = none ∧
    (∀ i, t.par.read i = none) ∧ (∀ a, t.tbl.read a = none) ∧ t.fault = false ∧ t.cause = .none ∧ t.fop = 0

/-! ## Faults -/

/-- Rule R236: when an operation on a non-faulted block raises a fault, the state is exactly the state before it plus the
fault record, with the operation's own word in `FOP` and the default outputs. -/
def Obligations.FaultEntryIsPrecise : Prop :=
  ∀ (i : Instr) (s s' : State), s.fault = false → exec i s = .next s' → s'.fault = true →
    ∃ c, c ≠ .none ∧ s' = faulted s c (opwOf i)

/-- Rule R32: a step writes the fault record only by the fault entry, on a block that had not faulted, and clears it only by
power-on reset. -/
def Obligations.FaultRecordWriters : Prop :=
  ∀ s s' : State, step s = .next s' →
    (s'.fault = s.fault ∧ s'.cause = s.cause ∧ s'.fop = s.fop) ∨
    (s.fault = false ∧ s'.fault = true ∧ s'.cause ≠ .none ∧ ∃ r rest, s.inputs = .op r :: rest ∧ s'.fop = r.opw) ∨
    ((∃ rest, s.inputs = .rst :: rest) ∧ s'.fault = false ∧ s'.cause = .none ∧ s'.fop = 0)

/-- Rule R237: while `FAULT = 1` every request is ignored and drives the default outputs, and power-on reset clears the
record; that such a request is a step with a next state is the model's reading (log 6). -/
def Obligations.FaultedBlockIgnoresRequests : Prop :=
  ∀ s : State, s.fault = true → s.cfg.device ≠ .reentrant →
    (∀ i, exec i s = .next { s with ports := {} }) ∧
    (∀ (r : Request) (rest : List HostInput), s.inputs = .op r :: rest → r.seq.length ≤ 65535 →
      step s = .next { s with inputs := rest, ports := {} }) ∧
    (∀ rest, s.inputs = .rst :: rest → ∃ t, step s = .next t ∧ t.fault = false ∧ t.cause = .none ∧ t.fop = 0)

/-- Rules R12 and R237 over runs: however many steps a faulted block takes with no power-on reset among its inputs, only the
pending inputs and the outputs differ at the end; that these are steps with a next state is the model's reading (log 6),
and that the steps after the last input wait with default outputs is the model's choice (log 2). -/
def Obligations.FaultIsSticky : Prop :=
  ∀ (k : Nat) (s s' : State), s.fault = true → HostInput.rst ∉ s.inputs →
    Host.Core.run Sys2Proof.core k s = .next s' →
    s' = { s with inputs := s.inputs.drop k, ports := if k = 0 then s.ports else {} }

/-- Rule R238: decode before bounds before `Unwritten`: a reserved word faults whatever its operands, and a `TGET` or `RPAR`
out of bounds reports its bounds fault whatever the cells hold, its hook not run. -/
def Obligations.FaultPriority : Prop :=
  ∀ s : State, s.Ready →
    (∀ (r : Request) (rest : List HostInput), s.inputs = .op r :: rest → Reserved r.opw →
      step s = .next (faulted { s with inputs := rest } .reservedOp r.opw)) ∧
    (∀ n signed mk, (n, signed, mk) ∈ gets → ∀ off : PortA, s.cfg.numCtl < off.toNat + n →
      exec (mk off) s = .next (faulted s .tableBounds (opwOf (mk off)))) ∧
    (∀ i : PortA, s.cfg.capacity ≤ i.toNat → exec (.rpar i) s = .next (faulted s .paramIndex 0x60))

/-- Rule R192: every operation of a device whose hook performs a table access is refused by name; that framer operations are refused
too is the model's choice (log 12). -/
def Obligations.ReentrantDeviceRefused : Prop :=
  ∀ (i : Instr) (s : State), s.cfg.device = .reentrant → exec i s = .refused .reentrantHook

/-! ## The receiver -/

/-- Rules R111, R112 and R113: the sync states, the whole next state; `ST` is `Incomplete` (0). -/
def Obligations.SyncStates : Prop :=
  ∀ (s : State) (b : Byte), s.Ready →
    (s.pst = .idle → exec (.pb b) s =
      .next (if b = 0xFF then { s with pst := .sync1Seen, ports := { st := 0 } } else { s with ports := { st := 0 } })) ∧
    (s.pst = .sync1Seen → exec (.pb b) s =
      .next { s with pst := if b = 0xFF then .sync2Seen else .idle, ports := { st := 0 } }) ∧
    (s.pst = .sync2Seen → exec (.pb b) s =
      .next (if b = 0xFF then { s with ports := { st := 0 } }
        else { s with id := some b, chk := some b, pst := .idReceived, ports := { st := 0 } }))

/-- Rules R114 and R115: the length and command bytes, the whole next state; sums are mod 256. -/
def Obligations.LengthAndCommandBytes : Prop :=
  ∀ (s : State) (b c : Byte), s.Ready → s.chk = some c →
    (s.pst = .idReceived → exec (.pb b) s =
      .next { s with len := some b, chk := some (BitVec.ofNat 8 ((c.toNat + b.toNat) % 256)), pst := .lengthReceived,
                     ports := { st := 0 } }) ∧
    (s.pst = .lengthReceived → exec (.pb b) s =
      .next { s with cmd := some b, chk := some (BitVec.ofNat 8 ((c.toNat + b.toNat) % 256)), idx := some 0,
                     pst := .receivingBody, ports := { st := 0 } })

/-- Rule R116: a parameter byte (`idx < d`): it enters the checksum, it is stored only below the capacity, and `idx` counts it. -/
def Obligations.ParameterByte : Prop :=
  ∀ (s : State) (b c l i : Byte), s.Ready → s.pst = .receivingBody → s.chk = some c → s.len = some l → s.idx = some i →
    i.toNat < l.toNat - 2 →
    ∃ t, exec (.pb b) s = .next t ∧
      t = { s with chk := some (BitVec.ofNat 8 ((c.toNat + b.toNat) % 256)), idx := some (BitVec.ofNat 8 (i.toNat + 1)),
                   par := t.par, ports := { st := 0 } } ∧
      (∀ a, t.par.read a = if a = i.toNat ∧ i.toNat < s.cfg.capacity then some b else s.par.read a) ∧
      i.toNat + 1 ≤ 253

/-- Rules R117 and R118: the checksum byte (`idx ≥ d`): the result, `chk = b` in every case, `pst = Idle`, all else unchanged. -/
def Obligations.ChecksumByte : Prop :=
  ∀ (s : State) (b c l i : Byte), s.Ready → s.pst = .receivingBody → s.chk = some c → s.len = some l → s.idx = some i →
    l.toNat - 2 ≤ i.toNat →
    exec (.pb b) s =
      .next { s with
        pst := .idle
        chk := some b
        ports := { st := if b.toNat = 255 - c.toNat then (if i.toNat ≤ s.cfg.capacity then 1 else 3) else 2 } }

/-- Rule R119: in the unused parser states a `PB` writes nothing and returns `Incomplete`, and a `PRST` leaves them. -/
def Obligations.UnusedParserStates : Prop :=
  ∀ (s : State) (b : Byte), s.Ready → (s.pst = .unused6 ∨ s.pst = .unused7) →
    exec (.pb b) s = .next { s with ports := { st := 0 } } ∧
    exec .prst s = .next { s with pst := .idle, ports := {} }

/-- Rule R120: `PRST` (word 0x10) writes `pst` only. -/
def Obligations.AbandonFrame : Prop :=
  opwOf .prst = 0x10 ∧ ∀ s : State, s.Ready → exec .prst s = .next { s with pst := .idle, ports := {} }

/-- Rule R110's formal `Unwritten` check: a `PB` that reads a `⊥` register takes the fault entry. -/
def Obligations.ReceiverUnwrittenFault : Prop :=
  ∀ (s : State) (b : Byte), s.Ready →
    ((s.pst = .idReceived ∨ s.pst = .lengthReceived) ∧ s.chk = none) ∨
      (s.pst = .receivingBody ∧ (s.len = none ∨ s.idx = none ∨ s.chk = none)) →
    exec (.pb b) s = .next (faulted s .unwritten 0x08)

/-- Rule R110: a `PB` completes without a fault in every state whose frame in progress has its registers, and leaves such a
state again. -/
def Obligations.ReceiverCompletes : Prop :=
  ∀ (s : State) (b : Byte), s.Ready → s.MidFrameWritten →
    ∃ t, exec (.pb b) s = .next t ∧ t.fault = false ∧ t.MidFrameWritten

/-- The frame of `PB`: only the registers its parser state names, and only the parameter cell at `idx`, below the capacity and
the declared count; never the table. -/
def Obligations.ReceiverFrame : Prop :=
  ∀ (s t : State) (b : Byte), s.Ready → exec (.pb b) s = .next t →
    t.tbl = s.tbl ∧ t.cfg = s.cfg ∧ t.inputs = s.inputs ∧ t.draws = s.draws ∧
    (s.pst ≠ .sync2Seen → t.id = s.id) ∧
    (s.pst ≠ .idReceived → t.len = s.len) ∧
    (s.pst ≠ .lengthReceived → t.cmd = s.cmd) ∧
    (s.pst ≠ .lengthReceived → s.pst ≠ .receivingBody → t.idx = s.idx) ∧
    (s.pst = .idle ∨ s.pst = .sync1Seen ∨ s.pst = .unused6 ∨ s.pst = .unused7 → t.chk = s.chk) ∧
    (∀ a, ¬(s.pst = .receivingBody ∧ a < s.cfg.capacity ∧
        ∃ l i, s.len = some l ∧ s.idx = some i ∧ i.toNat = a ∧ a < l.toNat - 2) →
      t.par.read a = s.par.read a)

/-- Rule R121 (a), (c), (d) and (e) of one `PB`: a result other than `Incomplete` comes with `pst = Idle` and `chk` the byte
received; no cell at or beyond the capacity changes; `id` never takes `0xFF`. -/
def Obligations.ReceiverInvariants : Prop :=
  ∀ (s t : State) (b : Byte), s.Ready → exec (.pb b) s = .next t →
    (t.ports.st ≠ 0 → t.pst = .idle ∧ t.chk = some b ∧ s.pst = .receivingBody) ∧
    (∀ a, s.cfg.capacity ≤ a → t.par.read a = s.par.read a) ∧
    (t.id = some 0xFF → s.id = some 0xFF)

/-- A whole frame, from `Idle`, after any noise without `0xFF` and with any number of extra sync bytes: `Incomplete` until the
checksum byte, then the result rule R118 gives, every register as the frame says, the parameters that fit stored and every
other cell untouched. -/
def Obligations.FrameReception : Prop :=
  ∀ (s : State) (noise : List Byte) (k : Nat) (x l c w : Byte) (ps : List Byte),
    s.Ready → s.pst = .idle → (∀ b ∈ noise, b ≠ 0xFF) → x ≠ 0xFF → ps.length = l.toNat - 2 →
    ∃ t, feed (noise ++ List.replicate k 0xFF ++ frame x l c ps w) s =
        some (List.replicate (noise.length + k + 5 + ps.length) 0 ++
          [if w.toNat = checksum x.toNat l.toNat c.toNat ps then
            (if ps.length ≤ s.cfg.capacity then 1 else 3) else 2], t) ∧
      t.pst = .idle ∧ t.id = some x ∧ t.len = some l ∧ t.cmd = some c ∧ t.chk = some w ∧
      t.idx = some (BitVec.ofNat 8 ps.length) ∧
      (∀ a, t.par.read a = if a < min ps.length s.cfg.capacity then ps[a]? else s.par.read a) ∧
      t.tbl = s.tbl ∧ t.fault = false ∧ t.cfg = s.cfg

/-- Rule R122: resynchronisation (noise and extra sync bytes do not change what a frame leaves), checksum sensitivity (a valid
frame changed in its id, command or parameters so that the byte sum differs mod 256, with the framing kept, mismatches), and
the capacity boundary (exactly at capacity `Ok`, one over `TooMuchData` with the first `C` bytes recovered). -/
def Obligations.ReceiverStatedProperties : Prop :=
  ∀ (s : State) (x l c w : Byte) (ps : List Byte),
    s.Ready → s.pst = .idle → x ≠ 0xFF → ps.length = l.toNat - 2 →
    w.toNat = checksum x.toNat l.toNat c.toNat ps →
    (∀ (noise : List Byte) (k : Nat), (∀ b ∈ noise, b ≠ 0xFF) →
      (feed (noise ++ List.replicate k 0xFF ++ frame x l c ps w) s).map (fun r => (r.1.getLast?, r.2)) =
        (feed (frame x l c ps w) s).map (fun r => (r.1.getLast?, r.2))) ∧
    (∀ (x' c' : Byte) (ps' : List Byte), x' ≠ 0xFF → ps'.length = ps.length →
      (x'.toNat + c'.toNat + (ps'.map BitVec.toNat).sum) % 256 ≠ (x.toNat + c.toNat + (ps.map BitVec.toNat).sum) % 256 →
      (feed (frame x' l c' ps' w) s).map (fun r => r.1.getLast?) = some (some 2)) ∧
    (ps.length = s.cfg.capacity → (feed (frame x l c ps w) s).map (fun r => r.1.getLast?) = some (some 1)) ∧
    (ps.length = s.cfg.capacity + 1 →
      ∃ sts t, feed (frame x l c ps w) s = some (sts, t) ∧ sts.getLast? = some 3 ∧
        ∀ a, a < s.cfg.capacity → t.par.read a = ps[a]?)

/-- Rule R265: no resynchronisation inside a frame: while the declared count is not reached, a sync pair is consumed as
parameters and the parser stays in the body. -/
def Obligations.NoResyncInsideFrame : Prop :=
  ∀ (s : State) (c l i : Byte), s.Ready → s.pst = .receivingBody → s.chk = some c → s.len = some l → s.idx = some i →
    i.toNat + 2 ≤ l.toNat - 2 →
    ∃ t, feed [0xFF, 0xFF] s = some ([0, 0], t) ∧ t.pst = .receivingBody ∧ t.idx = some (BitVec.ofNat 8 (i.toNat + 2)) ∧
      t.id = s.id ∧ t.len = s.len ∧ t.cmd = s.cmd

/-! ## Setters, checksum, serializer, accessors -/

/-- Rules R140 and R141: `SID` (0x28) and `SCMD` (0x30) write one register, with any byte, and never fault. -/
def Obligations.SettersWriteOneRegister : Prop :=
  ∀ (s : State) (b : Byte), s.Ready →
    opwOf (.sid b) = 0x28 ∧ exec (.sid b) s = .next { s with id := some b, ports := {} } ∧
    opwOf (.scmd b) = 0x30 ∧ exec (.scmd b) s = .next { s with cmd := some b, ports := {} }

/-- Rule R142: `SPAR` (0x38) clamps at the capacity, stores `par[0..n)`, sets `L = n + 2`, and changes nothing else; then
`numParams = stored = n`. -/
def Obligations.SetParameters : Prop :=
  ∀ (s : State) (q : List Byte), s.Ready → s.cfg.capacity ≤ 253 →
    opwOf (.spar q) = 0x38 ∧
    ∃ t, exec (.spar q) s = .next t ∧
      t = { s with par := t.par, len := some (BitVec.ofNat 8 (min q.length s.cfg.capacity + 2)), ports := {} } ∧
      (∀ a, t.par.read a = if a < min q.length s.cfg.capacity then q[a]? else s.par.read a) ∧
      (∀ l, t.len = some l → l.toNat - 2 = min q.length s.cfg.capacity ∧
        min (l.toNat - 2) s.cfg.capacity = min q.length s.cfg.capacity)

/-- Rule R81: the two forms of the checksum agree, for every sum. -/
def Obligations.ChecksumForms : Prop :=
  ∀ (x l c : Byte) (ps : List Byte),
    (checksumOf (x.toNat + l.toNat + c.toNat + (ps.map BitVec.toNat).sum)).toNat = checksum x.toNat l.toNat c.toNat ps ∧
    checksumOf (x.toNat + l.toNat + c.toNat + (ps.map BitVec.toNat).sum) =
      ~~~(BitVec.ofNat 8 ((x.toNat + l.toNat + c.toNat + (ps.map BitVec.toNat).sum) % 256))

/-- Rule R145: `UCK` (0x18) sums `id`, the derived length `max(L, 2)`, `cmd` and the stored parameters, and writes `chk` only;
it faults with `Unwritten` exactly when one of them is `⊥`. -/
def Obligations.UpdateChecksum : Prop :=
  ∀ s : State, s.Ready →
    opwOf .uck = 0x18 ∧
    (∀ (x l c : Byte) (ps : List Byte), s.id = some x → s.len = some l → s.cmd = some c →
      ps.length = min (l.toNat - 2) s.cfg.capacity → (∀ i, i < ps.length → s.par.read i = ps[i]?) →
      exec .uck s =
        .next { s with chk := some (BitVec.ofNat 8 (checksum x.toNat (max l.toNat 2) c.toNat ps)), ports := {} }) ∧
    (s.id = none ∨ s.len = none ∨ s.cmd = none ∨
        (∃ l i, s.len = some l ∧ i < min (l.toNat - 2) s.cfg.capacity ∧ s.par.read i = none) →
      exec .uck s = .next (faulted s .unwritten 0x18))

/-- Rule R146: `SER` (0x20) emits the first `c = min(maxLen, 6 + stored)` bytes of the packet and returns `c`, reads only the
bytes it emits, and changes no state; a `⊥` among them is `Unwritten`. -/
def Obligations.SerializePacket : Prop :=
  ∀ (s : State) (m : PortA) (l : Byte), s.Ready → s.len = some l →
    ∀ n, n = min (l.toNat - 2) s.cfg.capacity →
    ∀ cells : List (Option Byte),
      cells = [some 0xFF, some 0xFF, s.id, some (BitVec.ofNat 8 (max l.toNat 2)), s.cmd] ++
        (List.range n).map s.par.read ++ [s.chk] →
    opwOf (.ser m) = 0x20 ∧
    (∀ bs : List Byte, cells.take m.toNat = bs.map some →
      exec (.ser m) s = .next { s with ports := { res := BitVec.ofNat 32 (min m.toNat (6 + n)), out := bs } }) ∧
    (none ∈ cells.take m.toNat → exec (.ser m) s = .next (faulted s .unwritten 0x20))

/-- `SER` while `L` is `⊥`, read as log 13 says: the bytes before the length byte can be emitted, the length byte faults. -/
def Obligations.SerializeWithoutLength : Prop :=
  ∀ (s : State) (m : PortA), s.Ready → s.len = none →
    (4 ≤ m.toNat → exec (.ser m) s = .next (faulted s .unwritten 0x20)) ∧
    (m.toNat ≤ 2 → exec (.ser m) s =
      .next { s with ports := { res := BitVec.ofNat 32 m.toNat, out := List.replicate m.toNat 0xFF } }) ∧
    (m.toNat = 3 → s.id = none → exec (.ser m) s = .next (faulted s .unwritten 0x20)) ∧
    (∀ x, m.toNat = 3 → s.id = some x →
      exec (.ser m) s = .next { s with ports := { res := 3, out := [0xFF, 0xFF, x] } })

/-- Rules R150, R151, R152, R153 and R155: each accessor's word, its value zero-extended on `RES`, no state changed, and
`Unwritten` on a `⊥` register. -/
def Obligations.RegisterAccessors : Prop :=
  ∀ s : State, s.Ready →
    (opwOf .rid = 0x40 ∧ opwOf .rcmd = 0x48 ∧ opwOf .rlen = 0x50 ∧ opwOf .rnp = 0x58 ∧ opwOf .rchk = 0x68) ∧
    (∀ b, s.id = some b → exec .rid s = .next { s with ports := { res := BitVec.ofNat 32 b.toNat } }) ∧
    (s.id = none → exec .rid s = .next (faulted s .unwritten 0x40)) ∧
    (∀ b, s.cmd = some b → exec .rcmd s = .next { s with ports := { res := BitVec.ofNat 32 b.toNat } }) ∧
    (s.cmd = none → exec .rcmd s = .next (faulted s .unwritten 0x48)) ∧
    (∀ l, s.len = some l → exec .rlen s = .next { s with ports := { res := BitVec.ofNat 32 (max l.toNat 2) } }) ∧
    (s.len = none → exec .rlen s = .next (faulted s .unwritten 0x50)) ∧
    (∀ l, s.len = some l → exec .rnp s = .next { s with ports := { res := BitVec.ofNat 32 (l.toNat - 2) } }) ∧
    (s.len = none → exec .rnp s = .next (faulted s .unwritten 0x58)) ∧
    (∀ b, s.chk = some b → exec .rchk s = .next { s with ports := { res := BitVec.ofNat 32 b.toNat } }) ∧
    (s.chk = none → exec .rchk s = .next (faulted s .unwritten 0x68))

/-- Rule R154: `RPAR` (0x60): `ParamIndex` at or beyond the capacity, else `Unwritten` on a `⊥` cell, else the cell. -/
def Obligations.ReadParameter : Prop :=
  ∀ (s : State) (i : PortA), s.Ready →
    opwOf (.rpar i) = 0x60 ∧
    (s.cfg.capacity ≤ i.toNat → exec (.rpar i) s = .next (faulted s .paramIndex 0x60)) ∧
    (i.toNat < s.cfg.capacity → s.par.read i.toNat = none → exec (.rpar i) s = .next (faulted s .unwritten 0x60)) ∧
    (∀ b, i.toNat < s.cfg.capacity → s.par.read i.toNat = some b →
      exec (.rpar i) s = .next { s with ports := { res := BitVec.ofNat 32 b.toNat } })

/-- Rule R147: the round trip of a valid constructed packet: built on one framer, serialized, fed to a framer of the same
capacity in `Idle`, it gives `Ok`, leaves the constructed registers, and serializes to the same bytes again. -/
def Obligations.PacketRoundTrip : Prop :=
  ∀ (s1 s2 : State) (x y : Byte) (q : List Byte) (m : PortA),
    s1.Ready → s2.Ready → s2.pst = .idle → s2.cfg.capacity = s1.cfg.capacity → s1.cfg.capacity ≤ 253 →
    x ≠ 0xFF → q.length ≤ s1.cfg.capacity → 6 + q.length ≤ m.toNat →
    ∃ a b c d e t u,
      exec (.sid x) s1 = .next a ∧ exec (.scmd y) a = .next b ∧ exec (.spar q) b = .next c ∧ exec .uck c = .next d ∧
      exec (.ser m) d = .next e ∧ e.ports.out.length = 6 + q.length ∧
      feed e.ports.out s2 = some (List.replicate (5 + q.length) 0 ++ [1], t) ∧
      t.id = some x ∧ t.cmd = some y ∧ t.len = d.len ∧ t.chk = d.chk ∧
      (∀ i, i < q.length → t.par.read i = q[i]? ∧ d.par.read i = q[i]?) ∧
      exec (.ser m) t = .next u ∧ u.ports.out = e.ports.out

/-! ## The control table -/

/-- Rule R170, with R61 for the value: for every `TGET`, bounds first, then the populate hook, then `Unwritten` if a byte is `⊥`
(nothing kept), else the little-endian value extended by signedness; only the hook writes the table. -/
def Obligations.TableRead : Prop :=
  ∀ n signed mk, (n, signed, mk) ∈ gets → ∀ (s : State) (off : PortA), s.Ready →
    (s.cfg.numCtl < off.toNat + n → exec (mk off) s = .next (faulted s .tableBounds (opwOf (mk off)))) ∧
    (off.toNat + n ≤ s.cfg.numCtl →
      ((∃ k, k < n ∧ (populateEntry off.toNat s).tbl.read (off.toNat + k) = none) →
        exec (mk off) s = .next (faulted s .unwritten (opwOf (mk off)))) ∧
      (∀ bs : List Byte, bs.length = n →
        (∀ k, k < n → (populateEntry off.toNat s).tbl.read (off.toNat + k) = bs[k]?) →
        exec (mk off) s =
          .next { populateEntry off.toNat s with ports := { res := extended n signed (tableValue bs) } }))

/-- Rule R177: the populate hook is nothing in the base device; in a derived device each of the `N` cells takes the value
its `EXT_POPULATE` gives it and keeps its content where that gives none (the model's reading of R10), at a fresh draw, and changes nothing else; the function has no body and the draw counter is the model's own
(log 11). -/
def Obligations.PopulateHook : Prop :=
  ∀ (s : State) (off : Nat),
    (s.cfg.device = .base → populateEntry off s = s) ∧
    (∀ n, s.cfg.device = .derived n →
      populateEntry off s = { s with tbl := (populateEntry off s).tbl, draws := s.draws + 1 } ∧
      ∀ a, (populateEntry off s).tbl.read a =
        if a < s.cfg.numCtl then ((Config.extPopulate n s.draws s.tbl off).read a).or (s.tbl.read a) else none)

/-- Rule R70: on the base device a `TGET` changes no state, and two identical `TGET`s give the same outputs. -/
def Obligations.BaseReadIsIdempotent : Prop :=
  ∀ n signed mk, (n, signed, mk) ∈ gets → ∀ (s t : State) (off : PortA), s.cfg.device = .base → s.Ready →
    exec (mk off) s = .next t → t.fault = false → t = { s with ports := t.ports } ∧ exec (mk off) t = .next t

/-- Rules R180 and R62: every `TSET` out of bounds faults with nothing written; in bounds it stores exactly the bytes
`B[8k+7:8k]` at `off + k` and then runs the modified hook at `off`; it never faults otherwise, and signedness plays no part. -/
def Obligations.TableWrite : Prop :=
  ∀ n mk, (n, mk) ∈ sets → ∀ (s : State) (off : PortA) (v : Word), s.Ready →
    (s.cfg.numCtl < off.toNat + n → exec (mk off v) s = .next (faulted s .tableBounds (opwOf (mk off v)))) ∧
    (off.toNat + n ≤ s.cfg.numCtl →
      ∃ w : Memory,
        (∀ a, w.read a =
          if off.toNat ≤ a ∧ a < off.toNat + n then some (v.extractLsb' (8 * (a - off.toNat)) 8) else s.tbl.read a) ∧
        exec (mk off v) s = .next (entryModified off.toNat { s with tbl := w, ports := {} }))

/-- Rules R188 and R190: what the modified hook does: the base device appends `SetBaud` exactly at `OFF_BAUD` and writes
nothing; a derived device then writes the `N` cells of the table (a cell it gives no value keeps its content, the model's reading of R10) and appends its own
events after the base's, those to the transport alone; its function has no body (log 11), and that no storage request of it
goes out is the model's reading of R60, R72 and R210 (log 20). -/
def Obligations.ModifiedHook : Prop :=
  ∀ (s : State) (off : Nat) (base : List Event),
    (base = if off = 4 then (s.tbl.read 4).toList.map (fun sv => .setBaud (BitVec.ofNat 32 (2000000 / (sv.toNat + 1)))) else []) →
    (s.cfg.device = .base → entryModified off s = { s with ports := { s.ports with ev := s.ports.ev ++ base } }) ∧
    (∀ n, s.cfg.device = .derived n →
      entryModified off s =
        { s with
          tbl := (entryModified off s).tbl
          ports := { s.ports with
            ev := s.ports.ev ++ (base ++ (Config.extModified n s.tbl off).2.filter isTransportEvent) } } ∧
      ∀ a, (entryModified off s).tbl.read a =
        if a < s.cfg.numCtl then ((Config.extModified n s.tbl off).1.read a).or (s.tbl.read a) else none) ∧
    ∀ e : Event, isTransportEvent e = true ↔ ∃ rate, e = .setBaud rate

/-- Rule R190, on the base device, for every `TSET`: at `OFF_BAUD` the events are exactly one `SetBaud` at
`floor(2000000 / (sv + 1))` of the byte stored there, and at any other offset there is none, even when the write covers the
baud byte (R272). -/
def Obligations.BaudSideEffect : Prop :=
  ∀ n mk, (n, mk) ∈ sets → ∀ (s t : State) (off : PortA) (v : Word), s.cfg.device = .base → s.Ready →
    off.toNat + n ≤ s.cfg.numCtl → exec (mk off v) s = .next t →
    (off.toNat = 4 → t.ports.ev = [.setBaud (BitVec.ofNat 32 (2000000 / (v.toNat % 256 + 1)))]) ∧
    (off.toNat ≠ 4 → t.ports.ev = [])

/-- Rule R191: the reference rates, and that every rate lies in 7812..2000000. -/
def Obligations.BaudRates : Prop :=
  (∀ p ∈ ([(0, 2000000), (1, 1000000), (3, 500000), (4, 400000), (7, 250000), (9, 200000), (16, 117647), (34, 57142),
      (103, 19230), (207, 9615), (250, 7968), (255, 7812)] : List (Byte × Word)), baudRate p.1 = p.2) ∧
  ∀ sv : Byte, 7812 ≤ (baudRate sv).toNat ∧ (baudRate sv).toNat ≤ 2000000

/-- The frame of a `TSET` on the base device: registers, parameters and every table byte outside the stored ones are as
before. -/
def Obligations.TableWriteFrame : Prop :=
  ∀ n mk, (n, mk) ∈ sets → ∀ (s t : State) (off : PortA) (v : Word), s.cfg.device = .base → s.Ready →
    off.toNat + n ≤ s.cfg.numCtl → exec (mk off v) s = .next t →
    t = { s with tbl := t.tbl, ports := { ev := t.ports.ev } } ∧
    ∀ a, (a < off.toNat ∨ off.toNat + n ≤ a) → t.tbl.read a = s.tbl.read a

/-- Rule R63: a value written at one width and read at another: on the base device, a `TSET` of `n` bytes at `off` followed by
any `TGET` of `m` bytes at `off + j` inside it gives exactly the bytes `j .. j+m-1` of the value. -/
def Obligations.WriteThenRead : Prop :=
  ∀ n mkSet, (n, mkSet) ∈ sets → ∀ m signed mkGet, (m, signed, mkGet) ∈ gets →
    ∀ (s : State) (off off' : PortA) (v : Word) (j : Nat), s.cfg.device = .base → s.Ready →
      off.toNat + n ≤ s.cfg.numCtl → off'.toNat = off.toNat + j → j + m ≤ n →
      ∃ t u, exec (mkSet off v) s = .next t ∧ exec (mkGet off') t = .next u ∧
        u.ports.res = extended m signed (v.toNat / 256 ^ j % 256 ^ m)

/-! ## Persistence -/

/-- Rule R213: `TRST` (0xA0) writes the whole table and nothing else, with no event; on the base device the defaults at offsets
3, 4, 5 and zero elsewhere, on a derived device its `EXT_RESET` of that table; no cell of the table is `⊥` after it. That a
cell `EXT_RESET` gives no value keeps the base's is the model's reading of R10 (log 11). -/
def Obligations.TableReset : Prop :=
  ∀ s : State, s.Ready → s.cfg.legal →
    opwOf .trst = 0xA0 ∧
    ∃ t, exec .trst s = .next t ∧ t = { s with tbl := t.tbl, ports := {} } ∧
      (s.cfg.device = .base → ∀ a, t.tbl.read a = resetByte s.cfg a) ∧
      (∀ n, s.cfg.device = .derived n →
        ∃ base : Memory, base.wf ∧ (∀ a, base.read a = resetByte s.cfg a) ∧
          ∀ a, t.tbl.read a = if a < s.cfg.numCtl then ((Config.extReset n base).read a).or (base.read a) else none) ∧
      ∀ a, a < s.cfg.numCtl → t.tbl.read a ≠ none

/-- `TRST` twice leaves the table of `TRST` once, whatever the table and the registers before (R213, R70). -/
def Obligations.TableResetIdempotent : Prop :=
  ∀ s s' : State, s.Ready → s'.Ready → s.cfg = s'.cfg →
    ∃ t t' u, exec .trst s = .next t ∧ exec .trst s' = .next t' ∧ t.tbl = t'.tbl ∧ exec .trst t = .next u ∧ u.tbl = t.tbl

/-- Rule R211: `LOAD` (0x90): on `Ok(d)` of `P` bytes the persistent region is `d` and the rest of the table zero; on `Failed`
the table is the TRST-body's; either way one `StoreLoad(0, P)`, no other event, nothing else changed, and no cell of the table
is `⊥` after it. The count field holds `P` where its 16 bits do (R36); at `P = 65536` nothing is said of it (log 15). That no cell is
`⊥` after a failed load on a derived device rests on the model's reading of R10 (log 11). -/
def Obligations.LoadTable : Prop :=
  ∀ s : State, s.Ready → s.cfg.legal →
    opwOf (.load .failed) = 0x90 ∧
    ∃ n : BitVec 16, (s.cfg.numPersistent < 65536 → n.toNat = s.cfg.numPersistent) ∧
    (∀ d : List Byte, d.length = s.cfg.numPersistent →
      ∃ t, exec (.load (.okData d)) s = .next t ∧
        t = { s with tbl := t.tbl, ports := { ev := [.storeLoad 0 n] } } ∧
        ∀ a, t.tbl.read a = if a < s.cfg.numPersistent then d[a]? else if a < s.cfg.numCtl then some 0 else none) ∧
    (∃ t u, exec (.load .failed) s = .next t ∧ exec .trst s = .next u ∧
      t = { s with tbl := u.tbl, ports := { ev := [.storeLoad 0 n] } }) ∧
    (∀ ans t, exec (.load ans) s = .next t → ∀ a, a < s.cfg.numCtl → t.tbl.read a ≠ none)

/-- Rule R214: a `LOAD` answered `Failed` leaves the table that a `TRST` from any state of the same device leaves. -/
def Obligations.LoadFailureEqualsReset : Prop :=
  ∀ s s' : State, s.Ready → s'.Ready → s.cfg = s'.cfg →
    ∃ t u, exec (.load .failed) s = .next t ∧ exec .trst s' = .next u ∧ t.tbl = u.tbl

/-- Rule R212: `SAVE` (0x98): `Unwritten` if a persistent byte is `⊥`, before any request; else one `StoreSave` with exactly
the persistent bytes in offset order, the answer on `RES`, and no state changed. The count field holds `P` where its 16 bits do
(R36); at `P = 65536` nothing is said of it (log 15). -/
def Obligations.SaveTable : Prop :=
  ∀ s : State, s.Ready →
    opwOf (.save .ok) = 0x98 ∧
    ∃ n : BitVec 16, (s.cfg.numPersistent < 65536 → n.toNat = s.cfg.numPersistent) ∧
    (∀ ans, (∃ a, a < s.cfg.numPersistent ∧ s.tbl.read a = none) →
      exec (.save ans) s = .next (faulted s .unwritten 0x98)) ∧
    (∀ d : List Byte, d.length = s.cfg.numPersistent → (∀ a, a < s.cfg.numPersistent → s.tbl.read a = d[a]?) →
      exec (.save .ok) s =
        .next { s with ports := { res := 0, ev := [.storeSave 0 n d] } } ∧
      exec (.save .failed) s =
        .next { s with ports := { res := 1, ev := [.storeSave 0 n d] } })

/-- Rule R210: an answer of the wrong shape has no outcome: the block is stuck, by name; which shapes are wrong for which operation
is the model's reading (log 9). -/
def Obligations.MalformedAnswerStuck : Prop :=
  ∀ s : State, s.Ready →
    exec (.load .ok) s = .fault .storageAnswerShape ∧
    (∀ d : List Byte, d.length ≠ s.cfg.numPersistent → exec (.load (.okData d)) s = .fault .storageAnswerShape) ∧
    (∀ d e : List Byte, d.length = s.cfg.numPersistent → (∀ a, a < s.cfg.numPersistent → s.tbl.read a = d[a]?) →
      exec (.save (.okData e)) s = .fault .storageAnswerShape)

/-- Rule R215: what `SAVE` sent, answered to a later `LOAD`, restores the persistent region byte for byte and zeroes the
volatile one, whatever happened to the block in between. -/
def Obligations.SaveThenLoadRestores : Prop :=
  ∀ (s t s' : State) (ans : StorageAnswer) (n : BitVec 16) (d : List Byte), s.Ready → s'.Ready → s.cfg.legal →
    s'.cfg = s.cfg → exec (.save ans) s = .next t → t.ports.ev = [.storeSave 0 n d] →
    ∃ u, exec (.load (.okData d)) s' = .next u ∧
      (∀ a, a < s.cfg.numPersistent → u.tbl.read a = s.tbl.read a ∧ s.tbl.read a ≠ none) ∧
      (∀ a, s.cfg.numPersistent ≤ a → a < s.cfg.numCtl → u.tbl.read a = some 0)

/-! ## The whole machine -/

/-- Rule R20: no framer operation reads or writes the table unit's fields: with the table and the draw counter replaced, it does
exactly the same and leaves the replacement alone. -/
def Obligations.FramerIgnoresTable : Prop :=
  ∀ (i : Instr) (s : State) (m : Memory) (d : Nat), IsFramer i = true →
    exec i { s with tbl := m, draws := d } = mapNext (fun t => { t with tbl := m, draws := d }) (exec i s)

/-- Rule R20: no table operation reads or writes the framer's fields: with all of them replaced, it does exactly the same and
leaves the replacements alone. -/
def Obligations.TableIgnoresFramer : Prop :=
  ∀ (i : Instr) (s r : State), IsFramer i = false →
    exec i { s with pst := r.pst, id := r.id, len := r.len, cmd := r.cmd, chk := r.chk, idx := r.idx, par := r.par } =
      mapNext (fun t => { t with pst := r.pst, id := r.id, len := r.len, cmd := r.cmd, chk := r.chk, idx := r.idx,
                                 par := r.par }) (exec i s)

/-- Rules R21 to R27: the only operations that change each framer register, over all operations and states; none changes the
parameters or the pending inputs. -/
def Obligations.RegisterWriters : Prop :=
  ∀ (i : Instr) (s t : State), exec i s = .next t →
    (t.pst ≠ s.pst → (∃ b, i = .pb b) ∨ i = .prst) ∧
    (t.id ≠ s.id → (∃ b, i = .pb b) ∨ (∃ b, i = .sid b)) ∧
    (t.len ≠ s.len → (∃ b, i = .pb b) ∨ (∃ q, i = .spar q)) ∧
    (t.cmd ≠ s.cmd → (∃ b, i = .pb b) ∨ (∃ b, i = .scmd b)) ∧
    (t.chk ≠ s.chk → (∃ b, i = .pb b) ∨ i = .uck) ∧
    (t.idx ≠ s.idx → ∃ b, i = .pb b) ∧
    (t.par ≠ s.par → (∃ b, i = .pb b) ∨ (∃ q, i = .spar q)) ∧
    t.cfg = s.cfg ∧ t.inputs = s.inputs

/-- The operations that store nothing leave every byte of both memories as it was: setters of one register, checksum,
serializer, accessors, `PRST`, `SAVE`, and on the base device every `TGET`. -/
def Obligations.NoStoreForms : Prop :=
  ∀ (i : Instr) (s t : State), exec i s = .next t →
    (i = .prst ∨ i = .uck ∨ (∃ m, i = .ser m) ∨ (∃ b, i = .sid b) ∨ (∃ b, i = .scmd b) ∨ i = .rid ∨ i = .rcmd ∨
      i = .rlen ∨ i = .rnp ∨ (∃ k, i = .rpar k) ∨ i = .rchk ∨ (∃ ans, i = .save ans) ∨
      (s.cfg.device = .base ∧ ∃ n signed mk off, (n, signed, mk) ∈ gets ∧ i = mk off)) →
    ∀ a, t.par.read a = s.par.read a ∧ t.tbl.read a = s.tbl.read a

/-- Rule R88: an output an operation does not write takes its default value in its step. Rules R60, R72 and R210: among the
events of any operation on any device, a storage request is `LOAD`'s `StoreLoad` or `SAVE`'s `StoreSave`, at offset 0 (for a
derived device's events this is the model's reading, log 20). -/
def Obligations.DefaultOutputs : Prop :=
  ∀ (i : Instr) (s t : State), exec i s = .next t →
    ((writesPorts i).1 = false → t.ports.st = 0) ∧
    ((writesPorts i).2.1 = false → t.ports.res = 0) ∧
    ((writesPorts i).2.2.1 = false → t.ports.out = []) ∧
    ((writesPorts i).2.2.2 = false → t.ports.ev = []) ∧
    (∀ off n, .storeLoad off n ∈ t.ports.ev → off = 0 ∧ ∃ ans, i = .load ans) ∧
    (∀ off n d, .storeSave off n d ∈ t.ports.ev → off = 0 ∧ ∃ ans, i = .save ans)

/-- Rule R10: a register or cell that holds a value never becomes `⊥` again by an operation, on any device;
for the hooks of a derived device this is the model's reading of R10 (log 11). -/
def Obligations.WrittenStaysWritten : Prop :=
  ∀ (i : Instr) (s t : State), exec i s = .next t →
    (s.id.isSome → t.id.isSome) ∧ (s.len.isSome → t.len.isSome) ∧ (s.cmd.isSome → t.cmd.isSome) ∧
    (s.chk.isSome → t.chk.isSome) ∧ (s.idx.isSome → t.idx.isSome) ∧
    (∀ a, (s.par.read a).isSome → (t.par.read a).isSome) ∧
    (∀ a, a < s.cfg.numCtl → (s.tbl.read a).isSome → (t.tbl.read a).isSome)

/-- Every step keeps the invariant `State.Inv`: the parameters legal, both memories in canonical form and within their sizes,
`pst` one of the six states, `idx ≤ 253`, the fault record consistent, and a frame in progress with its registers. -/
def Obligations.StepKeepsInvariant : Prop := ∀ s s' : State, s.Inv → step s = .next s' → s'.Inv

/-- The invariant holds right after reset, with the model's parameters (log 4) and with any legal ones. -/
def Obligations.ResetHasInvariant : Prop := State.reset.Inv ∧ ∀ cfg : Config, cfg.legal → (State.powerOn cfg).Inv
end

