-- ==== Sys2Proof/Laws/Decode.lean ====
section
/-! SUPPORT. The fields of a request word as arithmetic, and what each part of the decoder can answer. -/

namespace Sys2Proof

/-! ## The fields (R85) as division and remainder -/

theorem opField_toNat (w : Byte) : (opField w).toNat = w.toNat / 8 := by
  have := w.isLt
  simp only [opField, BitVec.extractLsb'_toNat, Nat.shiftRight_eq_div_pow]
  omega

theorem wcField_toNat (w : Byte) : (wcField w).toNat = w.toNat / 2 % 4 := by
  simp only [wcField, BitVec.extractLsb'_toNat, Nat.shiftRight_eq_div_pow]

theorem sField_toNat (w : Byte) : (sField w).toNat = w.toNat % 2 := by
  simp only [sField, BitVec.extractLsb'_toNat, Nat.shiftRight_eq_div_pow]
  omega

theorem lowField_eq_zero (w : Byte) : lowField w = 0#3 ↔ w.toNat % 8 = 0 := by
  rw [← BitVec.toNat_inj]
  simp only [lowField, BitVec.extractLsb'_toNat, Nat.shiftRight_eq_div_pow, BitVec.toNat_ofNat]
  omega

theorem byteOperand_setWidth (b : Byte) : byteOperand (b.setWidth 32) = b := by
  simp [byteOperand]

/-- A byte operand is `B[7:0]` (R95). -/
theorem byteOperand_eq (b : Word) : byteOperand b = b.extractLsb' 0 8 := by
  apply BitVec.eq_of_toNat_eq
  simp [byteOperand]

/-! ## The parts of the decoder -/

theorem decodePlain_ok {w : Byte} {i j : Instr} : decodePlain w i = .ok j ↔ w.toNat % 8 = 0 ∧ i = j := by
  rw [decodePlain, ← lowField_eq_zero]
  split <;> simp_all

theorem decodePlain_error {w : Byte} {i : Instr} {e : DecodeError} :
    decodePlain w i = .error e ↔ w.toNat % 8 ≠ 0 ∧ e = .reservedOp := by
  rw [decodePlain, Ne, ← lowField_eq_zero]
  split <;> simp_all [eq_comm]

theorem decodeSpar_ok {w : Byte} {q : List Byte} {j : Instr} :
    decodeSpar w q = .ok j ↔ w.toNat % 8 = 0 ∧ q.length ≤ maxSeq ∧ j = .spar q := by
  rw [decodeSpar, ← lowField_eq_zero]
  split
  · split <;> simp_all [eq_comm]
  · simp_all

theorem decodeSpar_reserved {w : Byte} {q : List Byte} :
    decodeSpar w q = .error .reservedOp ↔ w.toNat % 8 ≠ 0 := by
  rw [decodeSpar, Ne, ← lowField_eq_zero]
  split
  · split <;> simp_all
  · simp_all

/-- All a `TGET` word can decode to: the width code and signedness name one of six operations, or the word is reserved. -/
theorem decodeTget_cases (wc s : Nat) (a : PortA) :
    (wc = 0 ∧ s = 0 ∧ decodeTget wc s a = .ok (.tgetU8 a)) ∨ (wc = 0 ∧ s = 1 ∧ decodeTget wc s a = .ok (.tgetS8 a)) ∨
    (wc = 1 ∧ s = 0 ∧ decodeTget wc s a = .ok (.tgetU16 a)) ∨ (wc = 1 ∧ s = 1 ∧ decodeTget wc s a = .ok (.tgetS16 a)) ∨
    (wc = 2 ∧ s = 0 ∧ decodeTget wc s a = .ok (.tgetU32 a)) ∨ (wc = 2 ∧ s = 1 ∧ decodeTget wc s a = .ok (.tgetS32 a)) ∨
    ((3 ≤ wc ∨ 2 ≤ s) ∧ decodeTget wc s a = .error .reservedOp) := by
  match wc, s with
  | 0, 0 | 0, 1 | 1, 0 | 1, 1 | 2, 0 | 2, 1 => simp [decodeTget]
  | wc + 3, s => simp [decodeTget]
  | 0, s + 2 | 1, s + 2 | 2, s + 2 => simp [decodeTget]

/-- All a `TSET` word can decode to: the width code and signedness name one of six operations, or the word is reserved. -/
theorem decodeTset_cases (wc s : Nat) (a : PortA) (b : Word) :
    (wc = 0 ∧ s = 0 ∧ decodeTset wc s a b = .ok (.tsetU8 a b)) ∨
    (wc = 0 ∧ s = 1 ∧ decodeTset wc s a b = .ok (.tsetS8 a b)) ∨
    (wc = 1 ∧ s = 0 ∧ decodeTset wc s a b = .ok (.tsetU16 a b)) ∨
    (wc = 1 ∧ s = 1 ∧ decodeTset wc s a b = .ok (.tsetS16 a b)) ∨
    (wc = 2 ∧ s = 0 ∧ decodeTset wc s a b = .ok (.tsetU32 a b)) ∨
    (wc = 2 ∧ s = 1 ∧ decodeTset wc s a b = .ok (.tsetS32 a b)) ∨
    ((3 ≤ wc ∨ 2 ≤ s) ∧ decodeTset wc s a b = .error .reservedOp) := by
  match wc, s with
  | 0, 0 | 0, 1 | 1, 0 | 1, 1 | 2, 0 | 2, 1 => simp [decodeTset]
  | wc + 3, s => simp [decodeTset]
  | 0, s + 2 | 1, s + 2 | 2, s + 2 => simp [decodeTset]

end Sys2Proof
end

