-- ==== Sys2Proof/Laws/State.lean ====
section
/-! SUPPORT. One lemma per field of the state for each named update, so that no later proof unfolds a record update. -/

namespace Sys2Proof.Machine

/-! ## Driving the outputs -/

@[simp] theorem State.drive_pst (s : State) (p : Ports) : (s.drive p).pst = s.pst := rfl
@[simp] theorem State.drive_id (s : State) (p : Ports) : (s.drive p).id = s.id := rfl
@[simp] theorem State.drive_len (s : State) (p : Ports) : (s.drive p).len = s.len := rfl
@[simp] theorem State.drive_cmd (s : State) (p : Ports) : (s.drive p).cmd = s.cmd := rfl
@[simp] theorem State.drive_chk (s : State) (p : Ports) : (s.drive p).chk = s.chk := rfl
@[simp] theorem State.drive_idx (s : State) (p : Ports) : (s.drive p).idx = s.idx := rfl
@[simp] theorem State.drive_par (s : State) (p : Ports) : (s.drive p).par = s.par := rfl
@[simp] theorem State.drive_tbl (s : State) (p : Ports) : (s.drive p).tbl = s.tbl := rfl
@[simp] theorem State.drive_fault (s : State) (p : Ports) : (s.drive p).fault = s.fault := rfl
@[simp] theorem State.drive_cause (s : State) (p : Ports) : (s.drive p).cause = s.cause := rfl
@[simp] theorem State.drive_fop (s : State) (p : Ports) : (s.drive p).fop = s.fop := rfl
@[simp] theorem State.drive_ports (s : State) (p : Ports) : (s.drive p).ports = p := rfl
@[simp] theorem State.drive_inputs (s : State) (p : Ports) : (s.drive p).inputs = s.inputs := rfl
@[simp] theorem State.drive_draws (s : State) (p : Ports) : (s.drive p).draws = s.draws := rfl
@[simp] theorem State.drive_cfg (s : State) (p : Ports) : (s.drive p).cfg = s.cfg := rfl

/-! ## Default outputs -/

@[simp] theorem State.quiet_pst (s : State) : (s.quiet).pst = s.pst := rfl
@[simp] theorem State.quiet_id (s : State) : (s.quiet).id = s.id := rfl
@[simp] theorem State.quiet_len (s : State) : (s.quiet).len = s.len := rfl
@[simp] theorem State.quiet_cmd (s : State) : (s.quiet).cmd = s.cmd := rfl
@[simp] theorem State.quiet_chk (s : State) : (s.quiet).chk = s.chk := rfl
@[simp] theorem State.quiet_idx (s : State) : (s.quiet).idx = s.idx := rfl
@[simp] theorem State.quiet_par (s : State) : (s.quiet).par = s.par := rfl
@[simp] theorem State.quiet_tbl (s : State) : (s.quiet).tbl = s.tbl := rfl
@[simp] theorem State.quiet_fault (s : State) : (s.quiet).fault = s.fault := rfl
@[simp] theorem State.quiet_cause (s : State) : (s.quiet).cause = s.cause := rfl
@[simp] theorem State.quiet_fop (s : State) : (s.quiet).fop = s.fop := rfl
@[simp] theorem State.quiet_ports (s : State) : (s.quiet).ports = Ports.idle := rfl
@[simp] theorem State.quiet_inputs (s : State) : (s.quiet).inputs = s.inputs := rfl
@[simp] theorem State.quiet_draws (s : State) : (s.quiet).draws = s.draws := rfl
@[simp] theorem State.quiet_cfg (s : State) : (s.quiet).cfg = s.cfg := rfl

/-! ## Emitting events -/

@[simp] theorem State.emit_pst (s : State) (evs : List Event) : (s.emit evs).pst = s.pst := rfl
@[simp] theorem State.emit_id (s : State) (evs : List Event) : (s.emit evs).id = s.id := rfl
@[simp] theorem State.emit_len (s : State) (evs : List Event) : (s.emit evs).len = s.len := rfl
@[simp] theorem State.emit_cmd (s : State) (evs : List Event) : (s.emit evs).cmd = s.cmd := rfl
@[simp] theorem State.emit_chk (s : State) (evs : List Event) : (s.emit evs).chk = s.chk := rfl
@[simp] theorem State.emit_idx (s : State) (evs : List Event) : (s.emit evs).idx = s.idx := rfl
@[simp] theorem State.emit_par (s : State) (evs : List Event) : (s.emit evs).par = s.par := rfl
@[simp] theorem State.emit_tbl (s : State) (evs : List Event) : (s.emit evs).tbl = s.tbl := rfl
@[simp] theorem State.emit_fault (s : State) (evs : List Event) : (s.emit evs).fault = s.fault := rfl
@[simp] theorem State.emit_cause (s : State) (evs : List Event) : (s.emit evs).cause = s.cause := rfl
@[simp] theorem State.emit_fop (s : State) (evs : List Event) : (s.emit evs).fop = s.fop := rfl
@[simp] theorem State.emit_ports (s : State) (evs : List Event) : (s.emit evs).ports = { s.ports with ev := s.ports.ev ++ evs } := rfl
@[simp] theorem State.emit_inputs (s : State) (evs : List Event) : (s.emit evs).inputs = s.inputs := rfl
@[simp] theorem State.emit_draws (s : State) (evs : List Event) : (s.emit evs).draws = s.draws := rfl
@[simp] theorem State.emit_cfg (s : State) (evs : List Event) : (s.emit evs).cfg = s.cfg := rfl

/-! ## Taking a fault (R236) -/

@[simp] theorem State.enterFault_pst (s : State) (c : Cause) (w : Byte) : (s.enterFault c w).pst = s.pst := rfl
@[simp] theorem State.enterFault_id (s : State) (c : Cause) (w : Byte) : (s.enterFault c w).id = s.id := rfl
@[simp] theorem State.enterFault_len (s : State) (c : Cause) (w : Byte) : (s.enterFault c w).len = s.len := rfl
@[simp] theorem State.enterFault_cmd (s : State) (c : Cause) (w : Byte) : (s.enterFault c w).cmd = s.cmd := rfl
@[simp] theorem State.enterFault_chk (s : State) (c : Cause) (w : Byte) : (s.enterFault c w).chk = s.chk := rfl
@[simp] theorem State.enterFault_idx (s : State) (c : Cause) (w : Byte) : (s.enterFault c w).idx = s.idx := rfl
@[simp] theorem State.enterFault_par (s : State) (c : Cause) (w : Byte) : (s.enterFault c w).par = s.par := rfl
@[simp] theorem State.enterFault_tbl (s : State) (c : Cause) (w : Byte) : (s.enterFault c w).tbl = s.tbl := rfl
@[simp] theorem State.enterFault_fault (s : State) (c : Cause) (w : Byte) : (s.enterFault c w).fault = true := rfl
@[simp] theorem State.enterFault_cause (s : State) (c : Cause) (w : Byte) : (s.enterFault c w).cause = c := rfl
@[simp] theorem State.enterFault_fop (s : State) (c : Cause) (w : Byte) : (s.enterFault c w).fop = w := rfl
@[simp] theorem State.enterFault_ports (s : State) (c : Cause) (w : Byte) : (s.enterFault c w).ports = Ports.idle := rfl
@[simp] theorem State.enterFault_inputs (s : State) (c : Cause) (w : Byte) : (s.enterFault c w).inputs = s.inputs := rfl
@[simp] theorem State.enterFault_draws (s : State) (c : Cause) (w : Byte) : (s.enterFault c w).draws = s.draws := rfl
@[simp] theorem State.enterFault_cfg (s : State) (c : Cause) (w : Byte) : (s.enterFault c w).cfg = s.cfg := rfl

/-! ## Power-on reset (R37) -/

@[simp] theorem State.powerOn_pst (c : Config) : (State.powerOn c).pst = .idle := rfl
@[simp] theorem State.powerOn_id (c : Config) : (State.powerOn c).id = none := rfl
@[simp] theorem State.powerOn_len (c : Config) : (State.powerOn c).len = none := rfl
@[simp] theorem State.powerOn_cmd (c : Config) : (State.powerOn c).cmd = none := rfl
@[simp] theorem State.powerOn_chk (c : Config) : (State.powerOn c).chk = none := rfl
@[simp] theorem State.powerOn_idx (c : Config) : (State.powerOn c).idx = none := rfl
@[simp] theorem State.powerOn_par (c : Config) : (State.powerOn c).par = [] := rfl
@[simp] theorem State.powerOn_tbl (c : Config) : (State.powerOn c).tbl = [] := rfl
@[simp] theorem State.powerOn_fault (c : Config) : (State.powerOn c).fault = false := rfl
@[simp] theorem State.powerOn_cause (c : Config) : (State.powerOn c).cause = .none := rfl
@[simp] theorem State.powerOn_fop (c : Config) : (State.powerOn c).fop = 0#8 := rfl
@[simp] theorem State.powerOn_ports (c : Config) : (State.powerOn c).ports = Ports.idle := rfl
@[simp] theorem State.powerOn_inputs (c : Config) : (State.powerOn c).inputs = [] := rfl
@[simp] theorem State.powerOn_draws (c : Config) : (State.powerOn c).draws = 0 := rfl
@[simp] theorem State.powerOn_cfg (c : Config) : (State.powerOn c).cfg = c := rfl

@[simp] theorem State.afterReset_pst (s : State) : (powerOnReset s).pst = .idle := rfl
@[simp] theorem State.afterReset_id (s : State) : (powerOnReset s).id = none := rfl
@[simp] theorem State.afterReset_len (s : State) : (powerOnReset s).len = none := rfl
@[simp] theorem State.afterReset_cmd (s : State) : (powerOnReset s).cmd = none := rfl
@[simp] theorem State.afterReset_chk (s : State) : (powerOnReset s).chk = none := rfl
@[simp] theorem State.afterReset_idx (s : State) : (powerOnReset s).idx = none := rfl
@[simp] theorem State.afterReset_par (s : State) : (powerOnReset s).par = [] := rfl
@[simp] theorem State.afterReset_tbl (s : State) : (powerOnReset s).tbl = [] := rfl
@[simp] theorem State.afterReset_fault (s : State) : (powerOnReset s).fault = false := rfl
@[simp] theorem State.afterReset_cause (s : State) : (powerOnReset s).cause = .none := rfl
@[simp] theorem State.afterReset_fop (s : State) : (powerOnReset s).fop = 0#8 := rfl
@[simp] theorem State.afterReset_ports (s : State) : (powerOnReset s).ports = Ports.idle := rfl
@[simp] theorem State.afterReset_inputs (s : State) : (powerOnReset s).inputs = s.inputs := rfl
@[simp] theorem State.afterReset_draws (s : State) : (powerOnReset s).draws = s.draws + 1 := rfl
@[simp] theorem State.afterReset_cfg (s : State) : (powerOnReset s).cfg = s.cfg := rfl

/-! ## Updates that compose -/

@[simp] theorem State.quiet_quiet (s : State) : s.quiet.quiet = s.quiet := rfl
@[simp] theorem State.quiet_enterFault (s : State) (c : Cause) (w : Byte) :
    s.quiet.enterFault c w = s.enterFault c w := rfl
@[simp] theorem State.quiet_drive (s : State) (p : Ports) : s.quiet.drive p = s.drive p := rfl
@[simp] theorem State.drive_idle_eq_quiet (s : State) : s.drive Ports.idle = s.quiet := rfl

/-! ## The default outputs -/

@[simp] theorem Ports.idle_st : Ports.idle.st = 0#2 := rfl
@[simp] theorem Ports.idle_res : Ports.idle.res = 0#32 := rfl
@[simp] theorem Ports.idle_out : Ports.idle.out = [] := rfl
@[simp] theorem Ports.idle_ev : Ports.idle.ev = [] := rfl

end Sys2Proof.Machine
end

