-- ==== Sys2Proof/Laws/Ops.lean ====
section
/-! SUPPORT. Everything the shared shape of an operation, the fault entry and the hooks can do, said once. -/

namespace Sys2Proof.Machine

/-! ## The shape of every operation -/

/-- On a block that takes operations, the body runs on the state with default outputs (R88, R236). -/
theorem operate_ready {s : State} (h : s.Ready) (w : Byte) (body : State → OpResult) :
    operate w s body =
      match body s.quiet with
      | .done s' => .next s'
      | .raise c => .next (s.enterFault c w)
      | .stuck f => .fault f := by
  unfold operate
  exact (if_neg h.2).trans (if_neg (by rw [h.1]; exact Bool.false_ne_true))

theorem operate_done {s s' : State} (h : s.Ready) {w : Byte} {body : State → OpResult} (hb : body s.quiet = .done s') :
    operate w s body = .next s' := by rw [operate_ready h, hb]

theorem operate_raise {s : State} (h : s.Ready) {w : Byte} {body : State → OpResult} {c : Cause}
    (hb : body s.quiet = .raise c) : operate w s body = .next (s.enterFault c w) := by rw [operate_ready h, hb]

theorem operate_stuck {s : State} (h : s.Ready) {w : Byte} {body : State → OpResult} {f : Fault}
    (hb : body s.quiet = .stuck f) : operate w s body = .fault f := by rw [operate_ready h, hb]

/-- A faulted block ignores the request (R237). -/
theorem operate_faulted {s : State} (hf : s.fault = true) (hd : s.cfg.device ≠ .reentrant) (w : Byte)
    (body : State → OpResult) : operate w s body = .next s.quiet := by rw [operate, if_neg hd, if_pos hf]

/-- A device outside the model is refused by name (R192). -/
theorem operate_reentrant {s : State} (hd : s.cfg.device = .reentrant) (w : Byte) (body : State → OpResult) :
    operate w s body = .refused .reentrantHook := by rw [operate, if_pos hd]

/-- All an operation that answers a next state can have done: nothing, on a faulted block; what its body did; or the fault
entry on the state before it. -/
theorem operate_next {s s' : State} {w : Byte} {body : State → OpResult} (h : operate w s body = .next s') :
    (s.fault = true ∧ s.cfg.device ≠ .reentrant ∧ s' = s.quiet) ∨
    (s.Ready ∧ body s.quiet = .done s') ∨
    (s.Ready ∧ ∃ c, body s.quiet = .raise c ∧ s' = s.enterFault c w) := by
  unfold operate at h
  split at h
  · cases h
  · rename_i hd
    split at h
    · rename_i hf
      cases h
      exact .inl ⟨hf, hd, rfl⟩
    · rename_i hf
      have hr : s.Ready := ⟨by simpa using hf, hd⟩
      split at h
      · rename_i hb
        cases h
        exact .inr (.inl ⟨hr, hb⟩)
      · rename_i c hb
        cases h
        exact .inr (.inr ⟨hr, c, hb, rfl⟩)
      · cases h

@[simp] theorem State.quiet_ready (s : State) : s.quiet.Ready ↔ s.Ready := Iff.rfl

/-! ## Hooks -/

/-- The base device's populate hook does nothing (R177). -/
theorem populateEntry_base {s : State} (h : s.cfg.device = .base) (off : Nat) : populateEntry off s = s := by
  unfold populateEntry; rw [h]

/-- All `populateEntry` can change: the table, and the draw counter. -/
theorem populateEntry_eq (off : Nat) (s : State) :
    populateEntry off s =
      { s with tbl := (populateEntry off s).tbl, draws := (populateEntry off s).draws } := by
  unfold populateEntry; split <;> rfl

/-- The base device's modified hook emits the base events and writes nothing (R190). -/
theorem entryModified_base {s : State} (h : s.cfg.device = .base) (off : Nat) :
    entryModified off s = s.emit (baudEvents off s.tbl) := by
  unfold entryModified; rw [h]

/-- All `entryModified` can change: the table and the output ports. -/
theorem entryModified_eq (off : Nat) (s : State) :
    entryModified off s =
      { s with tbl := (entryModified off s).tbl, ports := (entryModified off s).ports } := by
  unfold entryModified; split <;> rfl

/-- The hook's outputs are those before it but for the events it appends (R188). -/
theorem entryModified_ports (off : Nat) (s : State) :
    (entryModified off s).ports = { s.ports with ev := (entryModified off s).ports.ev } := by
  unfold entryModified; split <;> rfl

/-- Every event of a device hook that goes out goes to the transport (R210, log 20). -/
theorem deviceEvents_setBaud {evs : List Event} {e : Event} (h : e ∈ deviceEvents evs) : ∃ rate, e = .setBaud rate := by
  obtain ⟨-, ht⟩ := List.mem_filter.mp h
  cases e with
  | setBaud rate => exact ⟨rate, rfl⟩
  | storeLoad off n => cases ht
  | storeSave off n data => cases ht

/-- The base hook's events go to the transport (R190). -/
theorem baudEvents_setBaud {off : Nat} {tbl : Memory} {e : Event} (h : e ∈ baudEvents off tbl) :
    ∃ rate, e = .setBaud rate := by
  unfold baudEvents at h
  split at h
  · obtain ⟨sv, -, rfl⟩ := List.mem_map.mp h
    exact ⟨_, rfl⟩
  · cases h

/-- Every event the modified hook adds goes to the transport (R210, log 20). -/
theorem entryModified_events {off : Nat} {s : State} {e : Event} (h : e ∈ (entryModified off s).ports.ev) :
    e ∈ s.ports.ev ∨ ∃ rate, e = .setBaud rate := by
  unfold entryModified at h
  split at h
  all_goals
    rcases List.mem_append.mp h with h | h
    · exact .inl h
  · exact .inr (baudEvents_setBaud h)
  · exact .inr (baudEvents_setBaud h)
  · rcases List.mem_append.mp h with h | h
    · exact .inr (baudEvents_setBaud h)
    · exact .inr (deviceEvents_setBaud h)

/-- The count field holds `P` wherever 16 bits do (R36, R211, R212). -/
theorem storeCount_toNat {cfg : Config} (h : cfg.numPersistent < 65536) : (storeCount cfg).toNat = cfg.numPersistent := by
  rw [storeCount, if_pos h, BitVec.toNat_ofNat]
  exact Nat.mod_eq_of_lt h

theorem extReset_base {cfg : Config} (h : cfg.device = .base) (tbl : Memory) : extReset cfg tbl = tbl := by
  unfold extReset; rw [h]

/-- A `TSET` elsewhere than at `OFF_BAUD` emits no base event (R272). -/
theorem baudEvents_of_ne {off : Nat} (h : off ≠ Config.offBaud) (tbl : Memory) : baudEvents off tbl = [] := if_neg h

/-- A `TSET` at `OFF_BAUD` emits the rate of the byte there (R190). -/
theorem baudEvents_offBaud {tbl : Memory} {sv : Byte} (h : tbl.read Config.offBaud = some sv) :
    baudEvents Config.offBaud tbl = [.setBaud (baudRate sv)] := by
  rw [baudEvents, if_pos rfl, h]; rfl

/-! ## The step -/

theorem step_idle {s : State} (h : s.inputs = []) : step s = .next s.quiet := by
  unfold step nextInput; rw [h]; rfl

theorem step_rst {s : State} {rest : List HostInput} (h : s.inputs = .rst :: rest) :
    step s = .next (powerOnReset { s with inputs := rest }) := by
  unfold step nextInput; rw [h]

theorem step_op {s : State} {r : Request} {rest : List HostInput} (h : s.inputs = .op r :: rest) :
    step s =
      match decode r with
      | .ok i => exec i { s with inputs := rest }
      | .error .reservedOp => reservedWord r.opw { s with inputs := rest }
      | .error .seqTooLong => .refused .seqTooLong := by
  unfold step nextInput; rw [h]; rfl

end Sys2Proof.Machine
end

