-- ==== Sys2Proof/Laws/Exec.lean ====
section
/-! SUPPORT. Every meaning is one body run by `operate`; what a body can and cannot change, said once. -/

namespace Sys2Proof.Machine

/-- The body of each operation. -/
def bodyOf : Instr → State → OpResult
  | .pb b => receiveByte b
  | .prst => abandonFrame
  | .uck => updateChecksum
  | .ser m => serialize m
  | .sid b => setId b
  | .scmd b => setCommand b
  | .spar q => setParams q
  | .rid => readId
  | .rcmd => readCommand
  | .rlen => readLength
  | .rnp => readNumParams
  | .rpar i => readParam i
  | .rchk => readChecksum
  | .tgetU8 off => tableGet 1 false off
  | .tgetS8 off => tableGet 1 true off
  | .tgetU16 off => tableGet 2 false off
  | .tgetS16 off => tableGet 2 true off
  | .tgetU32 off => tableGet 4 false off
  | .tgetS32 off => tableGet 4 true off
  | .tsetU8 off v => tableSet 1 off v
  | .tsetS8 off v => tableSet 1 off v
  | .tsetU16 off v => tableSet 2 off v
  | .tsetS16 off v => tableSet 2 off v
  | .tsetU32 off v => tableSet 4 off v
  | .tsetS32 off v => tableSet 4 off v
  | .load ans => loadTable ans
  | .save ans => saveTable ans
  | .trst => initTable

/-- Every meaning is its body run by `operate` under its own request word. -/
theorem exec_eq_operate (i : Instr) (s : State) : exec i s = operate (opwOf i) s (bodyOf i) := by
  cases i <;> rfl

/-- All an operation that answers a next state can have done. -/
theorem exec_next {i : Instr} {s s' : State} (h : exec i s = .next s') :
    (s.fault = true ∧ s.cfg.device ≠ .reentrant ∧ s' = s.quiet) ∨
    (s.Ready ∧ bodyOf i s.quiet = .done s') ∨
    (s.Ready ∧ ∃ c, bodyOf i s.quiet = .raise c ∧ s' = s.enterFault c (opwOf i)) :=
  operate_next (exec_eq_operate i s ▸ h)

/-! ## What each shared body can do -/

/-- What `readOut` can do: drive `RES`, or raise `Unwritten`. -/
theorem readOut_cases (r : Option Byte) (f : Byte → Word) (s : State) :
    (∃ b, r = some b ∧ readOut r f s = .done (s.drive { res := f b })) ∨
    (r = none ∧ readOut r f s = .raise .unwritten) := by
  cases r with
  | none => exact .inr ⟨rfl, rfl⟩
  | some b => exact .inl ⟨b, rfl, rfl⟩

/-- What `tableGet` can do (R170): a bounds fault, `Unwritten` after the hook, or the value on `RES`. -/
theorem tableGet_cases (n : Nat) (signed : Bool) (off : PortA) (s : State) :
    (s.cfg.numCtl < off.toNat + n ∧ tableGet n signed off s = .raise .tableBounds) ∨
    (off.toNat + n ≤ s.cfg.numCtl ∧ (populateEntry off.toNat s).tbl.readLE off.toNat n = none ∧
      tableGet n signed off s = .raise .unwritten) ∨
    (off.toNat + n ≤ s.cfg.numCtl ∧ ∃ v, (populateEntry off.toNat s).tbl.readLE off.toNat n = some v ∧
      tableGet n signed off s = .done ((populateEntry off.toNat s).drive { res := extend n signed v })) := by
  unfold tableGet
  by_cases h : s.cfg.numCtl < off.toNat + n
  · exact .inl ⟨h, if_pos h⟩
  · rw [if_neg h]
    cases hv : (populateEntry off.toNat s).tbl.readLE off.toNat n with
    | none => exact .inr (.inl ⟨by omega, rfl, by simp [hv]⟩)
    | some v => exact .inr (.inr ⟨by omega, v, rfl, by simp [hv]⟩)

/-- What `tableSet` can do (R180): a bounds fault, or the write followed by the hook. -/
theorem tableSet_cases (n : Nat) (off : PortA) (v : Word) (s : State) :
    (s.cfg.numCtl < off.toNat + n ∧ tableSet n off v s = .raise .tableBounds) ∨
    (off.toNat + n ≤ s.cfg.numCtl ∧
      tableSet n off v s = .done (entryModified off.toNat { s with tbl := s.tbl.writeLE off.toNat n v })) := by
  unfold tableSet
  by_cases h : s.cfg.numCtl < off.toNat + n
  · exact .inl ⟨h, if_pos h⟩
  · exact .inr ⟨by omega, if_neg h⟩

/-- What `accumulate` can do: hand on the new sum, or raise `Unwritten`. -/
theorem accumulate_cases (b : Byte) (s : State) (k : Byte → OpResult) :
    (∃ c, s.chk = some c ∧ accumulate b s k = k (c + b)) ∨ (s.chk = none ∧ accumulate b s k = .raise .unwritten) := by
  unfold accumulate
  cases s.chk with
  | none => exact .inr ⟨rfl, rfl⟩
  | some c => exact .inl ⟨c, rfl, rfl⟩

/-! ## What no body can do -/

/-- A body that is done leaves the fault record, the parameters and the pending inputs as they were (R32, R33, R236). -/
theorem bodyOf_done {i : Instr} {s s' : State} (h : bodyOf i s = .done s') :
    s'.fault = s.fault ∧ s'.cause = s.cause ∧ s'.fop = s.fop ∧ s'.cfg = s.cfg ∧ s'.inputs = s.inputs := by
  cases i <;>
    simp only [bodyOf, receiveByte, abandonFrame, updateChecksum, serialize, setId, setCommand, setParams, readId,
      readCommand, readLength, readNumParams, readParam, readChecksum, readOut, tableGet, tableSet, loadTable, saveTable,
      initTable, accumulate, receiveParam, receiveChecksum] at h
  all_goals (repeat' split at h)
  all_goals first | (cases h; done) | skip
  all_goals (injection h with h; subst h)
  all_goals first
    | (simp; done)
    | (rw [populateEntry_eq]; simp)
    | (rw [entryModified_eq]; simp)

/-- A body raises one of the three causes of rules R234 and R235: decoding alone raises `ReservedOp` (R233). -/
theorem bodyOf_raise {i : Instr} {s : State} {c : Cause} (h : bodyOf i s = .raise c) :
    c ≠ .none ∧ c ≠ .reservedOp := by
  cases i <;>
    simp only [bodyOf, receiveByte, abandonFrame, updateChecksum, serialize, setId, setCommand, setParams, readId,
      readCommand, readLength, readNumParams, readParam, readChecksum, readOut, tableGet, tableSet, loadTable, saveTable,
      initTable, accumulate, receiveParam, receiveChecksum] at h
  all_goals (repeat' split at h)
  all_goals first | (cases h; done) | skip
  all_goals (injection h with h; subst h; decide)

end Sys2Proof.Machine
end

