-- ==== Sys2Proof/Laws/Memory.lean ====
section
/-! SUPPORT. What each memory operation does to one cell, and that it keeps the canonical form (R61, R62, R73). -/

namespace Sys2Proof

namespace Memory

/-! ## Reading -/

@[simp] theorem read_nil (a : Nat) : Memory.read [] a = none := rfl

theorem read_cons (k a : Nat) (v : Byte) (m : Memory) :
    Memory.read ((k, v) :: m) a = if k = a then some v else Memory.read m a := rfl

theorem read_append (m₁ m₂ : Memory) (a : Nat) :
    Memory.read (m₁ ++ m₂) a = (Memory.read m₁ a).or (Memory.read m₂ a) := by
  induction m₁ with
  | nil => simp
  | cons c rest ih =>
    obtain ⟨k, v⟩ := c
    simp only [List.cons_append, read_cons, ih]
    split <;> simp

/-- A cell at or above the bound of a memory is `⊥`. -/
theorem read_eq_none_of_below {m : Memory} {n a : Nat} (h : m.below n) (ha : n ≤ a) : m.read a = none := by
  induction m with
  | nil => rfl
  | cons c rest ih =>
    obtain ⟨k, v⟩ := c
    have hk : k < n := h (k, v) (by simp)
    rw [read_cons, if_neg (by omega)]
    exact ih (fun c hc => h c (List.mem_cons_of_mem _ hc))

/-! ## Writing one byte -/

/-- A read after a write: the byte written at that address, the old cell anywhere else. -/
theorem read_write (m : Memory) (a b : Nat) (v : Byte) :
    (m.write a v).read b = if a = b then some v else m.read b := by
  induction m with
  | nil => rfl
  | cons c rest ih =>
    obtain ⟨k, w⟩ := c
    simp only [Memory.write]
    split
    · rw [read_cons]
    · split
      · subst_vars; simp only [read_cons]; split <;> rfl
      · simp only [read_cons, ih]; split
        · rw [if_neg (by omega)]
        · rfl

theorem below_write {m : Memory} {n a : Nat} (v : Byte) (h : m.below n) (ha : a < n) : (m.write a v).below n := by
  induction m with
  | nil => simpa [Memory.write] using ha
  | cons c rest ih =>
    obtain ⟨k, w⟩ := c
    have hrest : Memory.below rest n := fun c hc => h c (List.mem_cons_of_mem _ hc)
    have hk : k < n := h (k, w) (by simp)
    simp only [Memory.write]
    split
    · intro c hc
      rcases List.mem_cons.mp hc with rfl | hc
      · exact ha
      · exact h c hc
    · split
      · intro c hc
        rcases List.mem_cons.mp hc with rfl | hc
        · exact ha
        · exact hrest c hc
      · intro c hc
        rcases List.mem_cons.mp hc with rfl | hc
        · exact hk
        · exact ih hrest c hc

/-- Every address of a memory after a write is the written one or one it had. -/
theorem mem_write {m : Memory} {a : Nat} {v : Byte} {c : Host.Cell} (h : c ∈ m.write a v) : c.1 = a ∨ c ∈ m := by
  induction m with
  | nil => left; simp [Memory.write] at h; simp [h]
  | cons d rest ih =>
    obtain ⟨k, w⟩ := d
    simp only [Memory.write] at h
    split at h
    · rcases List.mem_cons.mp h with rfl | h
      · exact .inl rfl
      · exact .inr h
    · split at h
      · rcases List.mem_cons.mp h with rfl | h
        · exact .inl rfl
        · exact .inr (List.mem_cons_of_mem _ h)
      · rcases List.mem_cons.mp h with rfl | h
        · exact .inr (by simp)
        · exact (ih h).imp_right (List.mem_cons_of_mem _)

theorem wf_write {m : Memory} (a : Nat) (v : Byte) (h : m.wf) : (m.write a v).wf := by
  induction m with
  | nil => exact List.pairwise_singleton _ _
  | cons d rest ih =>
    obtain ⟨k, w⟩ := d
    obtain ⟨hk, hrest⟩ := List.pairwise_cons.mp h
    simp only [Memory.write]
    split
    · rename_i hlt
      refine List.pairwise_cons.mpr ⟨?_, h⟩
      intro c hc
      rcases List.mem_cons.mp hc with rfl | hc
      · exact hlt
      · exact lt_trans hlt (hk c hc)
    · split
      · subst_vars
        exact List.pairwise_cons.mpr ⟨fun c hc => hk c hc, hrest⟩
      · refine List.pairwise_cons.mpr ⟨?_, ih hrest⟩
        intro c hc
        rcases mem_write hc with heq | hc
        · show k < c.1
          omega
        · exact hk c hc

/-! ## Writing a byte sequence -/

/-- A read after a sequence of writes: the byte of the sequence inside its range, the old cell outside. -/
theorem read_writeBytes (m : Memory) (off a : Nat) (bs : List Byte) :
    (m.writeBytes off bs).read a = if off ≤ a ∧ a < off + bs.length then bs[a - off]? else m.read a := by
  induction bs generalizing m off with
  | nil => rw [if_neg (by simp)]; rfl
  | cons b bs ih =>
    simp only [Memory.writeBytes, ih, read_write, List.length_cons]
    rcases Nat.lt_trichotomy a off with h | h | h
    · rw [if_neg (by omega), if_neg (by omega), if_neg (by omega)]
    · subst h; rw [if_neg (by omega), if_pos rfl, if_pos (by omega)]; simp
    · by_cases h2 : a < off + 1 + bs.length
      · rw [if_pos (by omega), if_pos (by omega), show a - off = (a - (off + 1)) + 1 by omega]; simp
      · rw [if_neg (by omega), if_neg (by omega), if_neg (by omega)]

theorem wf_writeBytes {m : Memory} (off : Nat) (bs : List Byte) (h : m.wf) : (m.writeBytes off bs).wf := by
  induction bs generalizing m off with
  | nil => exact h
  | cons b bs ih => exact ih _ (wf_write _ _ h)

theorem below_writeBytes {m : Memory} {n off : Nat} (bs : List Byte) (h : m.below n) (hb : off + bs.length ≤ n) :
    (m.writeBytes off bs).below n := by
  induction bs generalizing m off with
  | nil => exact h
  | cons b bs ih =>
    rw [List.length_cons] at hb
    exact ih (below_write _ h (by omega)) (by omega)

/-! ## Building a memory cell by cell -/

theorem build_succ (n : Nat) (f : Nat → Option Byte) :
    Memory.build (n + 1) f = Memory.build n f ++ ((f n).map (fun b => (n, b))).toList := by
  simp only [Memory.build, List.range_succ, List.filterMap_append]
  cases h : f n <;> simp [h]

theorem below_build (n : Nat) (f : Nat → Option Byte) : (Memory.build n f).below n := by
  intro c hc
  simp only [Memory.build, List.mem_filterMap, List.mem_range, Option.map_eq_some_iff] at hc
  obtain ⟨a, ha, b, -, rfl⟩ := hc
  exact ha

theorem read_build (n a : Nat) (f : Nat → Option Byte) :
    (Memory.build n f).read a = if a < n then f a else none := by
  induction n with
  | zero => rfl
  | succ n ih =>
    rw [build_succ, read_append, ih]
    rcases Nat.lt_trichotomy a n with h | h | h
    · rw [if_pos h, if_pos (by omega)]
      cases f n <;> simp [read_cons, Nat.ne_of_gt h]
    · subst h
      rw [if_neg (by omega), if_pos (by omega)]
      cases f a <;> simp [read_cons]
    · rw [if_neg (by omega), if_neg (by omega)]
      cases f n <;> simp [read_cons, Nat.ne_of_lt h]

theorem wf_build (n : Nat) (f : Nat → Option Byte) : (Memory.build n f).wf := by
  induction n with
  | zero => exact List.Pairwise.nil
  | succ n ih =>
    rw [build_succ]
    refine List.pairwise_append.mpr ⟨ih, by cases f n <;> simp, ?_⟩
    intro x hx y hy
    have hxn := below_build n f x hx
    cases h : f n with
    | none => simp [h] at hy
    | some b =>
      simp only [h, Option.map_some, Option.toList_some, List.mem_singleton] at hy
      rw [hy]
      exact hxn

theorem read_zeroed (n a : Nat) : (Memory.zeroed n).read a = if a < n then some 0#8 else none := read_build n a _
theorem wf_zeroed (n : Nat) : (Memory.zeroed n).wf := wf_build n _
theorem below_zeroed (n : Nat) : (Memory.zeroed n).below n := below_build n _

/-- A cell after an overlay: the new value where there is one, else the old cell. -/
theorem read_overlay (m w : Memory) (n a : Nat) :
    (m.overlay n w).read a = if a < n then (w.read a).or (m.read a) else none :=
  read_build n a _
theorem wf_overlay (m w : Memory) (n : Nat) : (m.overlay n w).wf := wf_build n _
theorem below_overlay (m w : Memory) (n : Nat) : (m.overlay n w).below n := below_build n _

/-- An overlay keeps every cell below the bound that holds a value (R10). -/
theorem isSome_overlay {m : Memory} (w : Memory) {n a : Nat} (ha : a < n) (h : (m.read a).isSome) :
    ((m.overlay n w).read a).isSome := by
  rw [read_overlay, if_pos ha, Option.isSome_or, h, Bool.or_true]

/-! ## Multi-byte access -/

theorem length_leBytes (n : Nat) (v : Word) : (leBytes n v).length = n := by simp [leBytes]

/-- `tbl[off + k] <- v[8k+7 : 8k]`, and no other cell (R62). -/
theorem read_writeLE (m : Memory) (off n a : Nat) (v : Word) :
    (m.writeLE off n v).read a =
      if off ≤ a ∧ a < off + n then some (v.extractLsb' (8 * (a - off)) 8) else m.read a := by
  rw [Memory.writeLE, read_writeBytes, length_leBytes]
  split
  · rename_i h
    rw [leBytes, List.getElem?_map, List.getElem?_range (by omega)]
    rfl
  · rfl

theorem wf_writeLE {m : Memory} (off n : Nat) (v : Word) (h : m.wf) : (m.writeLE off n v).wf := wf_writeBytes _ _ h

theorem below_writeLE {m : Memory} {k off n : Nat} (v : Word) (h : m.below k) (hb : off + n ≤ k) :
    (m.writeLE off n v).below k := below_writeBytes _ h (by rw [length_leBytes]; exact hb)

/-- A multi-byte read depends only on the cells it names. -/
theorem readLE_congr {m₁ m₂ : Memory} {off n : Nat} (h : ∀ a, off ≤ a → a < off + n → m₁.read a = m₂.read a) :
    m₁.readLE off n = m₂.readLE off n := by
  induction n generalizing off with
  | zero => rfl
  | succ n ih =>
    simp only [Memory.readLE]
    rw [h off (le_refl _) (by omega), ih (fun a h1 h2 => h a (by omega) (by omega))]

theorem readLE_lt {m : Memory} {off n v : Nat} (h : m.readLE off n = some v) : v < 256 ^ n := by
  induction n generalizing off v with
  | zero => simp only [Memory.readLE, Option.some.injEq] at h; subst h; exact Nat.one_pos
  | succ n ih =>
    simp only [Memory.readLE] at h
    split at h
    · rename_i b w hb hw
      have := ih hw
      have := b.isLt
      simp only [Option.some.injEq] at h
      rw [← h, Nat.pow_succ]
      omega
    · cases h

end Memory

/-! ## Sequences of cells -/

/-- A sequence of cells has bytes exactly when no cell is `⊥`. -/
theorem written_eq_some {cs : List (Option Byte)} {bs : List Byte} : written cs = some bs ↔ cs = bs.map some := by
  induction cs generalizing bs with
  | nil => cases bs <;> simp [written]
  | cons c cs ih =>
    cases c with
    | none => cases bs <;> simp [written]
    | some b =>
      cases bs with
      | nil => simp [written]
      | cons b' bs => simp [written, ih, and_comm]

theorem written_eq_none {cs : List (Option Byte)} : written cs = none ↔ none ∈ cs := by
  induction cs with
  | nil => simp [written]
  | cons c cs ih => cases c <;> simp [written, ih]

namespace Machine

/-! ## The tables that `TRST` and `LOAD` leave -/

theorem wf_extReset (cfg : Config) {tbl : Memory} (h : tbl.wf) : (extReset cfg tbl).wf := by
  unfold extReset
  split
  · exact h
  · exact h
  · exact Memory.wf_overlay _ _ _

theorem below_extReset (cfg : Config) {tbl : Memory} (h : tbl.below cfg.numCtl) :
    (extReset cfg tbl).below cfg.numCtl := by
  unfold extReset
  split
  · exact h
  · exact h
  · exact Memory.below_overlay _ _ _

theorem wf_resetTable (cfg : Config) : (resetTable cfg).wf :=
  wf_extReset cfg (Memory.wf_write _ _ (Memory.wf_write _ _ (Memory.wf_write _ _ (Memory.wf_zeroed _))))

theorem below_resetTable {cfg : Config} (h : cfg.legal) : (resetTable cfg).below cfg.numCtl := by
  obtain ⟨-, h1, h2, -⟩ := h
  refine below_extReset cfg (Memory.below_write _ (Memory.below_write _ (Memory.below_write _ (Memory.below_zeroed _) ?_) ?_) ?_)
  all_goals simp only [Config.offId, Config.offBaud, Config.offRdt]; omega

theorem wf_loadedTable (cfg : Config) (d : List Byte) : (loadedTable cfg d).wf :=
  Memory.wf_writeBytes _ _ (Memory.wf_zeroed _)

theorem below_loadedTable {cfg : Config} {d : List Byte} (h : d.length ≤ cfg.numCtl) :
    (loadedTable cfg d).below cfg.numCtl := Memory.below_writeBytes _ (Memory.below_zeroed _) (by omega)

/-- The hooks keep the table's form, whatever a derived device's function answers. -/
theorem wf_populateEntry {s : State} (off : Nat) (h : s.tbl.wf) : (populateEntry off s).tbl.wf := by
  unfold populateEntry
  split
  · exact h
  · exact h
  · exact Memory.wf_overlay _ _ _

theorem below_populateEntry {s : State} (off : Nat) (h : s.tbl.below s.cfg.numCtl) :
    (populateEntry off s).tbl.below s.cfg.numCtl := by
  unfold populateEntry
  split
  · exact h
  · exact h
  · exact Memory.below_overlay _ _ _

theorem wf_entryModified {s : State} (off : Nat) (h : s.tbl.wf) : (entryModified off s).tbl.wf := by
  unfold entryModified
  split
  · exact h
  · exact h
  · exact Memory.wf_overlay _ _ _

theorem below_entryModified {s : State} (off : Nat) (h : s.tbl.below s.cfg.numCtl) :
    (entryModified off s).tbl.below s.cfg.numCtl := by
  unfold entryModified
  split
  · exact h
  · exact h
  · exact Memory.below_overlay _ _ _

/-! ## No hook and no table operation takes a value away (R10) -/

theorem isSome_extReset {cfg : Config} {tbl : Memory} {a : Nat} (ha : a < cfg.numCtl) (h : (tbl.read a).isSome) :
    ((extReset cfg tbl).read a).isSome := by
  unfold extReset
  split
  · exact h
  · exact h
  · exact Memory.isSome_overlay _ ha h

theorem isSome_populateEntry {s : State} (off : Nat) {a : Nat} (ha : a < s.cfg.numCtl) (h : (s.tbl.read a).isSome) :
    ((populateEntry off s).tbl.read a).isSome := by
  unfold populateEntry
  split
  · exact h
  · exact h
  · exact Memory.isSome_overlay _ ha h

theorem isSome_entryModified {s : State} (off : Nat) {a : Nat} (ha : a < s.cfg.numCtl) (h : (s.tbl.read a).isSome) :
    ((entryModified off s).tbl.read a).isSome := by
  unfold entryModified
  split
  · exact h
  · exact h
  · exact Memory.isSome_overlay _ ha h

theorem isSome_write {m : Memory} {k a : Nat} (v : Byte) (h : (m.read a).isSome) : ((m.write k v).read a).isSome := by
  rw [Memory.read_write]
  split
  · rfl
  · exact h

theorem isSome_zeroed {n a : Nat} (ha : a < n) : ((Memory.zeroed n).read a).isSome := by
  rw [Memory.read_zeroed, if_pos ha]
  rfl

/-- After the TRST-body no cell of the table is `⊥`, on any device (R213). -/
theorem isSome_resetTable {cfg : Config} {a : Nat} (ha : a < cfg.numCtl) : ((resetTable cfg).read a).isSome :=
  isSome_extReset ha (isSome_write _ (isSome_write _ (isSome_write _ (isSome_zeroed ha))))

/-- After a successful load no cell of the table is `⊥` (R211). -/
theorem isSome_loadedTable {cfg : Config} (d : List Byte) {a : Nat} (ha : a < cfg.numCtl) :
    ((loadedTable cfg d).read a).isSome := by
  rw [loadedTable, Memory.read_writeBytes]
  split
  · rw [List.getElem?_eq_getElem (by omega)]
    rfl
  · exact isSome_zeroed ha

end Machine

end Sys2Proof
end

