-- ==== Sys2Proof/Laws/PerInstr.lean ====
section
/-! SUPPORT. The per-instruction family `EncodedWord`: each operation's request carries a legal word of rule R91, in the class R85 gives it. -/

namespace Sys2Proof.Laws

/-- The 28 legal request words, as rule R91 lists them. -/
def legalWords : List Byte :=
  [0x08#8, 0x10#8, 0x18#8, 0x20#8, 0x28#8, 0x30#8, 0x38#8, 0x40#8, 0x48#8, 0x50#8, 0x58#8, 0x60#8, 0x68#8]
    ++ [0x80#8, 0x81#8, 0x82#8, 0x83#8, 0x84#8, 0x85#8]
    ++ [0x88#8, 0x89#8, 0x8A#8, 0x8B#8, 0x8C#8, 0x8D#8]
    ++ [0x90#8, 0x98#8, 0xA0#8]

/-- The request that issues an operation carries the operation's own word, and that word is one of the 28 legal ones. -/
def EncodedWord.Statement (i : Instr) : Prop := (encode i).opw = opwOf i ∧ legalWords.contains (opwOf i) = true

theorem EncodedWord.pb (b : Byte) : EncodedWord.Statement (.pb b) := ⟨rfl, rfl⟩
theorem EncodedWord.prst : EncodedWord.Statement (.prst) := ⟨rfl, rfl⟩
theorem EncodedWord.uck : EncodedWord.Statement (.uck) := ⟨rfl, rfl⟩
theorem EncodedWord.ser (maxLen : PortA) : EncodedWord.Statement (.ser maxLen) := ⟨rfl, rfl⟩
theorem EncodedWord.sid (b : Byte) : EncodedWord.Statement (.sid b) := ⟨rfl, rfl⟩
theorem EncodedWord.scmd (b : Byte) : EncodedWord.Statement (.scmd b) := ⟨rfl, rfl⟩
theorem EncodedWord.spar (q : List Byte) : EncodedWord.Statement (.spar q) := ⟨rfl, rfl⟩
theorem EncodedWord.rid : EncodedWord.Statement (.rid) := ⟨rfl, rfl⟩
theorem EncodedWord.rcmd : EncodedWord.Statement (.rcmd) := ⟨rfl, rfl⟩
theorem EncodedWord.rlen : EncodedWord.Statement (.rlen) := ⟨rfl, rfl⟩
theorem EncodedWord.rnp : EncodedWord.Statement (.rnp) := ⟨rfl, rfl⟩
theorem EncodedWord.rpar (i : PortA) : EncodedWord.Statement (.rpar i) := ⟨rfl, rfl⟩
theorem EncodedWord.rchk : EncodedWord.Statement (.rchk) := ⟨rfl, rfl⟩
theorem EncodedWord.tgetU8 (off : PortA) : EncodedWord.Statement (.tgetU8 off) := ⟨rfl, rfl⟩
theorem EncodedWord.tgetS8 (off : PortA) : EncodedWord.Statement (.tgetS8 off) := ⟨rfl, rfl⟩
theorem EncodedWord.tgetU16 (off : PortA) : EncodedWord.Statement (.tgetU16 off) := ⟨rfl, rfl⟩
theorem EncodedWord.tgetS16 (off : PortA) : EncodedWord.Statement (.tgetS16 off) := ⟨rfl, rfl⟩
theorem EncodedWord.tgetU32 (off : PortA) : EncodedWord.Statement (.tgetU32 off) := ⟨rfl, rfl⟩
theorem EncodedWord.tgetS32 (off : PortA) : EncodedWord.Statement (.tgetS32 off) := ⟨rfl, rfl⟩
theorem EncodedWord.tsetU8 (off : PortA) (v : Word) : EncodedWord.Statement (.tsetU8 off v) := ⟨rfl, rfl⟩
theorem EncodedWord.tsetS8 (off : PortA) (v : Word) : EncodedWord.Statement (.tsetS8 off v) := ⟨rfl, rfl⟩
theorem EncodedWord.tsetU16 (off : PortA) (v : Word) : EncodedWord.Statement (.tsetU16 off v) := ⟨rfl, rfl⟩
theorem EncodedWord.tsetS16 (off : PortA) (v : Word) : EncodedWord.Statement (.tsetS16 off v) := ⟨rfl, rfl⟩
theorem EncodedWord.tsetU32 (off : PortA) (v : Word) : EncodedWord.Statement (.tsetU32 off v) := ⟨rfl, rfl⟩
theorem EncodedWord.tsetS32 (off : PortA) (v : Word) : EncodedWord.Statement (.tsetS32 off v) := ⟨rfl, rfl⟩
theorem EncodedWord.load (ans : StorageAnswer) : EncodedWord.Statement (.load ans) := ⟨rfl, rfl⟩
theorem EncodedWord.save (ans : StorageAnswer) : EncodedWord.Statement (.save ans) := ⟨rfl, rfl⟩
theorem EncodedWord.trst : EncodedWord.Statement (.trst) := ⟨rfl, rfl⟩

end Sys2Proof.Laws
end

