-- ==== Sys2Proof/Tests/Slice0.lean ====
section
/-! SUPPORT. The model's own tests: expected results from spec/30_encoding.md and spec/95_test_vectors.md, and a witness for every statement with hypotheses. -/

namespace Sys2Proof.Tests

open Sys2Proof Sys2Proof.Machine Sys2Proof.Claims

/-! ## Small states -/

/-- The next state of an outcome. -/
def after : Outcome → Option State
  | .next s => some s
  | .fault _ => none
  | .refused _ => none

/-- The output ports after an outcome. -/
def portsOf (o : Outcome) : Option Ports := (after o).map (·.ports)

/-- The fault record after an outcome. -/
def recordOf (o : Outcome) : Option (Bool × Cause × Byte) := (after o).map (fun s => (s.fault, s.cause, s.fop))

/-- Power-on reset of a block of parameter capacity `n` (R37). -/
def resetWith (n : Nat) : State := { State.reset with cfg := { Config.vectors with capacity := n } }

/-- The registers after the frame of V1. -/
def read1 : State :=
  { State.reset with
    id := some 0x01, len := some 0x04, cmd := some 0x02, chk := some 0xCC, idx := some 2, par := [(0, 0x2B), (1, 0x01)] }

/-- The registers after V5, on a block of capacity 1. -/
def oversized : State :=
  { resetWith 1 with
    id := some 0x01, len := some 0x04, cmd := some 0x02, chk := some 0xCC, idx := some 2, par := [(0, 0x2B)] }

/-- A packet built by `SID 1`, `SCMD 0`, `SPAR [0x20]` (V23 step 1): `chk` is still `⊥`. -/
def built : State := { State.reset with id := some 0x01, len := some 3, cmd := some 0x00, par := [(0, 0x20)] }

/-- The table of V31, written out. -/
def freshTable : Memory :=
  [(0, 0x00), (1, 0x00), (2, 0x00), (3, 0x01), (4, 0x01), (5, 0xFA)] ++ (List.range 44).map (fun k => (k + 6, 0x00))

/-- The state of V31. -/
def fresh : State := { State.reset with tbl := freshTable }

/-- A receiver in the body of a frame (the last row of V13), with the given capacity. -/
def midBody (capacity : Nat) (l i c : Byte) : State :=
  { resetWith capacity with
    pst := .receivingBody, id := some 0x01, len := some l, cmd := some 0x02, chk := some c, idx := some i }

/-- A faulted block (V40). -/
def stopped : State := { oversized with fault := true, cause := .paramIndex, fop := 0x60 }

/-- A block whose host has issued one input. -/
def issued (s : State) (x : HostInput) : State := { s with inputs := [x] }

/-- A block of a derived device type. -/
def derived (s : State) : State := { s with cfg := { s.cfg with device := .derived 7 } }

/-- A block of a device type outside the model (R192). -/
def reentrant (s : State) : State := { s with cfg := { s.cfg with device := .reentrant } }

/-! ## WellFormed refuses what the ports cannot carry -/

theorem test_spar_too_long_ill_formed : (Instr.spar (List.replicate 65536 0)).wellFormed = false := by
  rw [Instr.wellFormed, List.length_replicate]; decide

theorem test_spar_longest_well_formed : (Instr.spar (List.replicate 65535 0)).wellFormed = true := by
  rw [Instr.wellFormed, List.length_replicate]; decide

/-! ## Words written out from rules R85, R86 and R91: `op` (5 bits), then `wc` and `s` -/

theorem test_decode_pb : decode { opw := 0b00001000#8, b := 0xABCDEFCC#32 } = .ok (.pb 0xCC#8) := by decide
theorem test_decode_prst : decode { opw := 0b00010000#8 } = .ok .prst := by decide
theorem test_decode_uck : decode { opw := 0b00011000#8 } = .ok .uck := by decide
theorem test_decode_ser : decode { opw := 0b00100000#8, a := 300#16 } = .ok (.ser 300#16) := by decide
theorem test_decode_sid : decode { opw := 0b00101000#8, b := 0x1FE#32 } = .ok (.sid 0xFE#8) := by decide
theorem test_decode_scmd : decode { opw := 0b00110000#8, b := 3#32 } = .ok (.scmd 3#8) := by decide
theorem test_decode_spar : decode { opw := 0b00111000#8, seq := [3#8, 1#8] } = .ok (.spar [3#8, 1#8]) := by decide
theorem test_decode_rid : decode { opw := 0b01000000#8 } = .ok .rid := by decide
theorem test_decode_rcmd : decode { opw := 0b01001000#8 } = .ok .rcmd := by decide
theorem test_decode_rlen : decode { opw := 0b01010000#8 } = .ok .rlen := by decide
theorem test_decode_rnp : decode { opw := 0b01011000#8 } = .ok .rnp := by decide
theorem test_decode_rpar : decode { opw := 0b01100000#8, a := 2#16 } = .ok (.rpar 2#16) := by decide
theorem test_decode_rchk : decode { opw := 0b01101000#8 } = .ok .rchk := by decide
theorem test_decode_tgetU8 : decode { opw := 0b10000000#8, a := 5#16 } = .ok (.tgetU8 5#16) := by decide
theorem test_decode_tgetS8 : decode { opw := 0b10000001#8, a := 5#16 } = .ok (.tgetS8 5#16) := by decide
theorem test_decode_tgetU16 : decode { opw := 0b10000010#8, a := 5#16 } = .ok (.tgetU16 5#16) := by decide
theorem test_decode_tgetS16 : decode { opw := 0b10000011#8, a := 5#16 } = .ok (.tgetS16 5#16) := by decide
theorem test_decode_tgetU32 : decode { opw := 0b10000100#8, a := 5#16 } = .ok (.tgetU32 5#16) := by decide
theorem test_decode_tgetS32 : decode { opw := 0b10000101#8, a := 5#16 } = .ok (.tgetS32 5#16) := by decide
theorem test_decode_tsetU8 : decode { opw := 0b10001000#8, a := 4#16, b := 3#32 } = .ok (.tsetU8 4#16 3#32) := by decide
theorem test_decode_tsetS8 : decode { opw := 0b10001001#8, a := 4#16, b := 3#32 } = .ok (.tsetS8 4#16 3#32) := by decide
theorem test_decode_tsetU16 : decode { opw := 0b10001010#8, a := 4#16, b := 3#32 } = .ok (.tsetU16 4#16 3#32) := by decide
theorem test_decode_tsetS16 : decode { opw := 0b10001011#8, a := 4#16, b := 3#32 } = .ok (.tsetS16 4#16 3#32) := by decide
theorem test_decode_tsetU32 : decode { opw := 0b10001100#8, a := 4#16, b := 3#32 } = .ok (.tsetU32 4#16 3#32) := by decide
theorem test_decode_tsetS32 : decode { opw := 0b10001101#8, a := 4#16, b := 3#32 } = .ok (.tsetS32 4#16 3#32) := by decide
theorem test_decode_load : decode { opw := 0b10010000#8, sresp := .okData [1#8] } = .ok (.load (.okData [1#8])) := by decide
theorem test_decode_save : decode { opw := 0b10011000#8, sresp := .ok } = .ok (.save .ok) := by decide
theorem test_decode_trst : decode { opw := 0b10100000#8 } = .ok .trst := by decide

/-- The reserved words of V39. -/
theorem test_decode_reserved :
    ∀ w ∈ [0x00#8, 0x07#8, 0x09#8, 0x11#8, 0x70#8, 0x86#8, 0x8F#8, 0xA8#8, 0xFF#8],
      decode { opw := w } = .error .reservedOp := by decide

/-- A table word of 8 bits reads as its operation with zero operands; a reserved word reads as none (log 17). -/
theorem test_table_word : decodeTableWord 8 0x8A = some (.tsetU16 0#16 0#32) ∧ decodeTableWord 8 0x70 = none := by decide

/-! ## The step -/

/-- The first operation after reset: `PB 00` in `Idle` (V13). -/
theorem test_step_from_reset : step (State.reset.withFetchWord 8 0x08) = .next State.reset := by rfl

theorem test_step_reserved :
    recordOf (step (State.reset.withFetchWord 8 0x86)) = some (true, .reservedOp, 0x86#8) := by decide

/-- V40 step 4: `RST` clears the fault record. -/
theorem test_step_rst : recordOf (step (issued stopped .rst)) = some (false, .none, 0#8) := by decide

theorem test_step_waits : step read1 = .next read1 := by rfl

/-! ## The receiver (V13, V1, V3, V5, V19, V21, V22, V12) -/

theorem test_pb_param_over_capacity :
    (after (execPb 0x01 (midBody 1 4 1 0x32))).map (fun s => (s.chk, s.idx, s.par)) =
      some (some 0x33#8, some 2#8, []) := by decide

theorem test_pb_checksum_results :
    ([(4, 0xCC), (1, 0xCC), (1, 0xEE)] : List (Nat × Byte)).map
      (fun p => (after (execPb p.2 (midBody p.1 4 2 0x33))).map (fun s => (s.ports.st, s.chk, s.pst))) =
    [some (1#2, some 0xCC#8, .idle), some (3#2, some 0xCC#8, .idle), some (2#2, some 0xEE#8, .idle)] := by decide

theorem test_prst_leaves_unused_state :
    (after (execPrst { read1 with pst := .unused6 })).map (·.pst) = some .idle := by decide

theorem test_prst_keeps_registers :
    after (execPrst { read1 with pst := .lengthReceived }) = some read1 := by decide

/-! ## Setters, checksum, serializer (V23 to V28) -/

theorem test_sid : (after (execSid 0xFE State.reset)).map (fun s => (s.id, s.chk)) = some (some 0xFE#8, none) := by decide
theorem test_scmd : (after (execScmd 3 read1)).map (fun s => (s.cmd, s.id)) = some (some 3#8, some 1#8) := by decide

/-- V24: the list is clamped at the capacity. -/
theorem test_spar_clamps :
    (after (execSpar [3, 1, 9] (resetWith 2))).map (fun s => (s.par, s.len)) =
      some ([(0, 3#8), (1, 1#8)], some 4#8) := by decide

/-- V25: an empty list leaves the stale bytes (R275). -/
theorem test_spar_empty :
    (after (execSpar [] read1)).map (fun s => (s.par, s.len)) = some ([(0, 0x2B#8), (1, 0x01#8)], some 2#8) := by decide

/-- V23: the sum is `01 + 03 + 00 + 20`. -/
theorem test_uck : (after (execUck built)).map (·.chk) = some (some 0xDB#8) := by decide

/-- V20: the derived length 2 is summed, not the received 0; V27: only the stored byte is summed. -/
theorem test_uck_derived_length :
    (after (execUck { built with len := some 0, cmd := some 5 })).map (·.chk) = some (some 0xF7#8) ∧
    (after (execUck oversized)).map (·.chk) = some (some 0xCD#8) := by decide

/-- V26 and V27. -/
theorem test_ser :
    portsOf (execSer 5 read1) = some { res := 5, out := [0xFF, 0xFF, 0x01, 0x04, 0x02] } ∧
    portsOf (execSer 300 oversized) = some { res := 7, out := [0xFF, 0xFF, 0x01, 0x04, 0x02, 0x2B, 0xCC] } := by decide

/-- V28: `SER` reads only what it emits. -/
theorem test_ser_unwritten :
    portsOf (execSer 6 built) = some { res := 6, out := [0xFF, 0xFF, 0x01, 0x03, 0x00, 0x20] } ∧
    recordOf (execSer 7 built) = some (true, .unwritten, 0x20#8) := by decide

/-! ## Accessors (V30, V15) -/

theorem test_rid : portsOf (execRid { read1 with id := some 0xFE }) = some { res := 0xFE#32 } := by decide
theorem test_rcmd : portsOf (execRcmd read1) = some { res := 2#32 } := by decide
theorem test_rlen : portsOf (execRlen { read1 with len := some 0 }) = some { res := 2#32 } := by decide
theorem test_rnp : portsOf (execRnp { read1 with len := some 1 }) = some { res := 0#32 } := by decide
theorem test_rchk : portsOf (execRchk read1) = some { res := 0xCC#32 } := by decide
theorem test_rpar : portsOf (execRpar 0 read1) = some { res := 0x2B#32 } := by decide
theorem test_rpar_faults :
    recordOf (execRpar 2 read1) = some (true, .unwritten, 0x60#8) ∧
    recordOf (execRpar 4 read1) = some (true, .paramIndex, 0x60#8) := by decide

/-! ## The control table (V32 to V35) -/

theorem test_tgetU8 : portsOf (execTgetU8 5 fresh) = some { res := 0xFA#32 } := by decide
theorem test_tgetS8 : portsOf (execTgetS8 5 fresh) = some { res := 0xFFFFFFFA#32 } := by decide
theorem test_tgetU16 : portsOf (execTgetU16 4 fresh) = some { res := 0xFA01#32 } := by decide
theorem test_tgetS16 : portsOf (execTgetS16 4 fresh) = some { res := 0xFFFFFA01#32 } := by decide
theorem test_tgetU32 : portsOf (execTgetU32 2 fresh) = some { res := 0xFA010100#32 } := by decide
theorem test_tgetS32 :
    portsOf (execTgetS32 0x2E { State.reset with tbl := [(0x2E, 0x34), (0x2F, 0x12), (0x30, 0x00), (0x31, 0xFF)] }) =
      some { res := 0xFF001234#32 } := by decide
theorem test_tget_bounds_first :
    recordOf (execTgetU8 60 State.reset) = some (true, .tableBounds, 0x80#8) ∧
    recordOf (execTgetU8 0 State.reset) = some (true, .unwritten, 0x80#8) ∧
    recordOf (execTgetU32 0x2F fresh) = some (true, .tableBounds, 0x84#8) := by decide

theorem test_tsetU8 : portsOf (execTsetU8 4 0x100 fresh) = some { ev := [.setBaud 2000000] } := by decide
theorem test_tsetS8 : (after (execTsetS8 0x31 0x1FF State.reset)).map (·.tbl) = some [(0x31, 0xFF#8)] := by decide
/-- V33: the offset 3 is not `OFF_BAUD`, though the write covers the baud byte (R272). -/
theorem test_tsetU16 :
    (after (execTsetU16 3 0x0201 State.reset)).map (fun s => (s.tbl, s.ports.ev)) =
      some ([(3, 0x01#8), (4, 0x02#8)], []) := by decide
theorem test_tsetS16 :
    (after (execTsetS16 0x20 0xFFFFFF85 State.reset)).map (·.tbl) = some [(0x20, 0x85#8), (0x21, 0xFF#8)] := by decide
theorem test_tsetU32 :
    (after (execTsetU32 0x2C 0x12345678 State.reset)).map (·.tbl) =
      some [(0x2C, 0x78#8), (0x2D, 0x56#8), (0x2E, 0x34#8), (0x2F, 0x12#8)] := by decide
theorem test_tsetS32 : portsOf (execTsetS32 4 0xFFFFFFFF fresh) = some { ev := [.setBaud 7812] } := by decide
theorem test_tset_bounds :
    after (execTsetU16 0x31 0 fresh) =
      some { fresh with fault := true, cause := .tableBounds, fop := 0x8A } := by decide

/-! ## Persistence (V31, V36, V38, V35) -/

theorem test_trst : (after (execTrst read1)).map (fun s => (s.tbl, s.id, s.ports.ev)) =
    some (freshTable, some 1#8, []) := by decide

/-- V6: the table of `TRST`, and one event. -/
theorem test_load_failed :
    after (execLoad .failed State.reset) = some { fresh with ports := { ev := [.storeLoad 0 24] } } := by decide

/-- V36: no `SetBaud` (R271), and the volatile region zero. -/
theorem test_load_ok :
    (after (execLoad (.okData ((List.range 24).map (fun k => BitVec.ofNat 8 (16 + k)))) fresh)).map
      (fun s => (s.tbl.read 23, s.tbl.read 24, s.tbl.read 50, s.ports.ev)) =
      some (some 0x27#8, some 0#8, none, [.storeLoad 0 24]) := by decide

theorem test_save :
    portsOf (execSave .failed fresh) =
      some { res := 1, ev := [.storeSave 0 24 ([0, 0, 0, 1, 1, 0xFA] ++ List.replicate 18 0)] } := by decide
theorem test_save_unwritten : recordOf (execSave .ok State.reset) = some (true, .unwritten, 0x98#8) := by decide

/-! ## Device hooks (R10, R29, R210) -/

/-- A written cell is never taken back, and nothing lands outside the table. -/
theorem test_overlay :
    Memory.overlay 3 [(0, 0x01), (1, 0x02)] [(1, 0x09), (5, 0x07)] = [(0, 0x01#8), (1, 0x09#8)] := by decide

theorem test_device_events :
    deviceEvents [.storeSave 3 4 [0], .setBaud 9600, .storeLoad 1 2] = [.setBaud 9600] := by decide

/-! ## Witnesses: every statement's hypotheses are met together, at the edges of their ranges -/

theorem witness_SpecWordsDecode : (List.replicate 65535 (0 : Byte)).length ≤ 65535 := by
  rw [List.length_replicate]

/-- One word for each bullet of rule R92, at the edges: op 0, 0x0E, 0x0F, 0x15 and 0x1F; low bits set; `wc = 3`. -/
theorem witness_ReservedWordsFault :
    ∀ w ∈ [0x00#8, 0x07#8, 0x70#8, 0x7F#8, 0xA8#8, 0xFF#8, 0x09#8, 0x6F#8, 0x91#8, 0xA7#8, 0x86#8, 0x8F#8],
      (issued State.reset (.op { opw := w })).Ready ∧
      (issued State.reset (.op { opw := w })).inputs = .op { opw := w } :: [] ∧ Reserved w := by decide

/-- The legal words beside those edges are not reserved. -/
theorem witness_not_reserved :
    ∀ w ∈ [0x08#8, 0x68#8, 0x80#8, 0x85#8, 0x88#8, 0x8D#8, 0x90#8, 0xA0#8], ¬ Reserved w := by decide

theorem witness_DecodeOfEncode : (Instr.spar (List.replicate 65535 0)).wellFormed = true ∧ Instr.trst.wellFormed = true :=
  ⟨test_spar_longest_well_formed, rfl⟩

theorem witness_DecodeReadsListedPorts :
    decode { opw := 0x08, b := 0xAB } = .ok (.pb 0xAB#8) ∧
    (({ opw := 0x08, b := 0x1AB, a := 9 } : Request).opw = (0x08 : Byte)) ∧
    SamePorts (.pb 0xAB) { opw := 0x08, b := 0xAB } { opw := 0x08, b := 0x1AB, a := 9 } := by
  refine ⟨by decide, rfl, ?_⟩
  show BitVec.extractLsb' 0 8 _ = BitVec.extractLsb' 0 8 _
  decide

theorem witness_StepRunsDecodedOperation :
    (issued read1 (.op { opw := 0x40 })).inputs = .op { opw := 0x40 } :: [] ∧ decode { opw := 0x40 } = .ok .rid := by decide

theorem witness_StepWithoutOperation :
    read1.inputs = [] ∧
    (∀ r : Request, r = { opw := 0x38, seq := List.replicate 65536 0 } →
      (issued read1 (.op r)).inputs = .op r :: [] ∧ r.opw = 0x38 ∧ 65535 < r.seq.length) := by
  refine ⟨rfl, fun r h => ⟨rfl, by rw [h], by rw [h, List.length_replicate]; decide⟩⟩

theorem witness_PowerOnReset : (issued stopped .rst).inputs = .rst :: [] := by decide

theorem witness_FaultEntryIsPrecise :
    oversized.fault = false ∧ exec (.rpar 1) oversized = .next stopped ∧ stopped.fault = true := ⟨rfl, rfl, rfl⟩

/-- One step for each of the three alternatives: record kept, written, cleared. -/
theorem witness_FaultRecordWriters :
    step read1 = .next read1 ∧
    step (issued oversized (.op { opw := 0x60, a := 1 })) = .next stopped ∧
    step (issued stopped .rst) = .next { resetWith 1 with draws := 1 } := ⟨rfl, rfl, rfl⟩

theorem witness_FaultedBlockIgnoresRequests :
    stopped.fault = true ∧ stopped.cfg.device ≠ .reentrant ∧
    (issued stopped (.op { opw := 0x40 })).inputs = .op { opw := 0x40 } :: [] ∧
    (issued stopped .rst).inputs = .rst :: [] := by decide

theorem witness_FaultIsSticky :
    (issued stopped (.op { opw := 0x40 })).fault = true ∧
    HostInput.rst ∉ (issued stopped (.op { opw := 0x40 })).inputs ∧
    Host.Core.run Sys2Proof.core 1 (issued stopped (.op { opw := 0x40 })) = .next stopped :=
  ⟨rfl, by decide, rfl⟩

theorem witness_FaultPriority :
    State.reset.Ready ∧
    (issued State.reset (.op { opw := 0xFF })).inputs = .op { opw := 0xFF } :: [] ∧ Reserved 0xFF#8 ∧
    State.reset.cfg.numCtl < (47#16).toNat + 4 ∧ State.reset.cfg.numCtl < (50#16).toNat + 1 ∧
    State.reset.cfg.capacity ≤ (4#16).toNat := by decide

/-- The first of the six `TGET`s is in the list (the others likewise, by their place). -/
theorem witness_gets : (1, false, Instr.tgetU8) ∈ gets ∧ (4, true, Instr.tgetS32) ∈ gets := by simp [gets]

theorem witness_sets : (1, Instr.tsetU8) ∈ sets ∧ (4, Instr.tsetS32) ∈ sets := by simp [sets]

theorem witness_ReentrantDeviceRefused : (reentrant State.reset).cfg.device = .reentrant := rfl

theorem witness_SyncStates :
    State.reset.Ready ∧ State.reset.pst = .idle ∧ ({ State.reset with pst := .sync1Seen } : State).Ready ∧
    ({ State.reset with pst := .sync2Seen } : State).Ready := by decide

/-- Both clauses, and a checksum that wraps (V2). -/
theorem witness_LengthAndCommandBytes :
    ∀ p ∈ [ParserState.idReceived, ParserState.lengthReceived],
      ({ State.reset with pst := p, chk := some 0xFE } : State).Ready ∧
      ({ State.reset with pst := p, chk := some 0xFE } : State).chk = some 0xFE#8 ∧
      ({ State.reset with pst := p, chk := some 0xFE } : State).pst = p := by decide

/-- The last parameter byte of the largest frame, and the indices on both sides of the capacity. -/
theorem witness_ParameterByte :
    ∀ i ∈ [0#8, 3#8, 4#8, 252#8],
      (midBody 4 255 i 0x32).Ready ∧ (midBody 4 255 i 0x32).pst = .receivingBody ∧
      (midBody 4 255 i 0x32).chk = some 0x32#8 ∧ (midBody 4 255 i 0x32).len = some 255#8 ∧
      (midBody 4 255 i 0x32).idx = some i ∧ i.toNat < (255#8).toNat - 2 := by decide

/-- The count reached exactly, also at count 0 from each short length byte, and at and one over the capacity. -/
theorem witness_ChecksumByte :
    ∀ p ∈ [(0#8, 0#8), (1#8, 0#8), (2#8, 0#8), (6#8, 4#8), (7#8, 5#8), (255#8, 253#8)],
      (midBody 4 p.1 p.2 0x33).Ready ∧ (midBody 4 p.1 p.2 0x33).pst = .receivingBody ∧
      (midBody 4 p.1 p.2 0x33).chk = some 0x33#8 ∧ (midBody 4 p.1 p.2 0x33).len = some p.1 ∧
      (midBody 4 p.1 p.2 0x33).idx = some p.2 ∧ p.1.toNat - 2 ≤ p.2.toNat := by
  intro p hp
  fin_cases hp <;> decide

theorem witness_UnusedParserStates :
    ({ State.reset with pst := .unused6 } : State).Ready ∧ ({ State.reset with pst := .unused7 } : State).Ready := by decide

theorem witness_AbandonFrame : (midBody 4 4 1 0x32).Ready := by decide

/-- One state for each of the five registers a `PB` can find `⊥`. -/
theorem witness_ReceiverUnwrittenFault :
    ∀ s ∈ [({ State.reset with pst := .idReceived } : State), { State.reset with pst := .lengthReceived },
        { midBody 4 4 1 0 with len := none }, { midBody 4 4 1 0 with idx := none }, { midBody 4 4 1 0 with chk := none }],
      s.Ready ∧ (((s.pst = .idReceived ∨ s.pst = .lengthReceived) ∧ s.chk = none) ∨
        (s.pst = .receivingBody ∧ (s.len = none ∨ s.idx = none ∨ s.chk = none))) := by decide

theorem witness_ReceiverCompletes : (midBody 4 4 1 0x32).Ready ∧ (midBody 4 4 1 0x32).MidFrameWritten :=
  ⟨⟨rfl, by decide⟩, rfl, rfl, rfl⟩

/-- A parameter byte that is not stored, and a byte that ends the frame. -/
theorem witness_ReceiverFrame :
    (midBody 1 4 1 0x32).Ready ∧ (after (exec (.pb 0x01) (midBody 1 4 1 0x32))).isSome := by decide

theorem witness_ReceiverInvariants :
    (midBody 1 4 2 0x33).Ready ∧
    (after (exec (.pb 0xCC) (midBody 1 4 2 0x33))).map (fun t => t.ports.st) = some 3#2 := by decide

/-- The frame of V4: one byte of noise, one extra sync byte, and the largest and smallest declared counts. -/
theorem witness_FrameReception :
    State.reset.Ready ∧ State.reset.pst = .idle ∧ (∀ b ∈ [0x00#8], b ≠ 0xFF#8) ∧ (0x01#8) ≠ 0xFF#8 ∧
    [0x2B#8, 0x01#8].length = (0x04#8).toNat - 2 ∧ ([] : List Byte).length = (0x00#8).toNat - 2 ∧
    (List.replicate 253 0x00#8).length = (0xFF#8).toNat - 2 := by
  rw [List.length_replicate]; decide

/-- V1 on capacities 2 and 1 (V9), and the changed frame of V11. -/
theorem witness_ReceiverStatedProperties :
    (resetWith 2).Ready ∧ (resetWith 2).pst = .idle ∧ (0x01#8) ≠ 0xFF#8 ∧
    [0x2B#8, 0x01#8].length = (0x04#8).toNat - 2 ∧
    (0xCC#8).toNat = checksum (0x01#8).toNat (0x04#8).toNat (0x02#8).toNat [0x2B, 0x01] ∧
    (∀ b ∈ [0x00#8], b ≠ 0xFF#8) ∧
    (0x02#8) ≠ 0xFF#8 ∧ [0x2B#8, 0x01#8].length = [0x2B#8, 0x01#8].length ∧
    ((0x02#8).toNat + (0x02#8).toNat + ([0x2B#8, 0x01#8].map BitVec.toNat).sum) % 256 ≠
      ((0x01#8).toNat + (0x02#8).toNat + ([0x2B#8, 0x01#8].map BitVec.toNat).sum) % 256 ∧
    [0x2B#8, 0x01#8].length = (resetWith 2).cfg.capacity ∧
    (resetWith 1).Ready ∧ (resetWith 1).pst = .idle ∧ [0x2B#8, 0x01#8].length = (resetWith 1).cfg.capacity + 1 := by decide

/-- V14 inside its body: the last two declared bytes are `ff ff`. -/
theorem witness_NoResyncInsideFrame :
    (midBody 4 5 1 0x33).Ready ∧ (midBody 4 5 1 0x33).pst = .receivingBody ∧ (midBody 4 5 1 0x33).chk = some 0x33#8 ∧
    (midBody 4 5 1 0x33).len = some 5#8 ∧ (midBody 4 5 1 0x33).idx = some 1#8 ∧
    (1#8).toNat + 2 ≤ (5#8).toNat - 2 := by decide

theorem witness_SettersWriteOneRegister : State.reset.Ready := by decide

theorem witness_SetParameters :
    (resetWith 253).Ready ∧ (resetWith 253).cfg.capacity ≤ 253 ∧ (resetWith 0).Ready ∧ (resetWith 0).cfg.capacity ≤ 253 := by
  decide

/-- A packet that sums, and one of each register or cell `⊥`. -/
theorem witness_UpdateChecksum :
    read1.Ready ∧ read1.id = some 1#8 ∧ read1.len = some 4#8 ∧ read1.cmd = some 2#8 ∧
    [0x2B#8, 0x01#8].length = min ((4#8).toNat - 2) read1.cfg.capacity ∧
    (∀ i, i < [0x2B#8, 0x01#8].length → read1.par.read i = [0x2B#8, 0x01#8][i]?) ∧
    ({ read1 with id := none } : State).id = none ∧ ({ read1 with len := none } : State).len = none ∧
    ({ read1 with cmd := none } : State).cmd = none ∧
    (1 < min ((4#8).toNat - 2) read1.cfg.capacity ∧ ({ read1 with par := [(0, 0x2B)] } : State).par.read 1 = none) := by
  decide

/-- V26 and V28: everything emitted, nothing emitted, and a `⊥` checksum among the emitted bytes. -/
theorem witness_SerializePacket :
    read1.Ready ∧ read1.len = some 4#8 ∧
    ([some 0xFF#8, some 0xFF#8, some 0x01#8, some 0x04#8, some 0x02#8, some 0x2B#8, some 0x01#8, some 0xCC#8].take
        (300#16).toNat = [0xFF#8, 0xFF#8, 0x01#8, 0x04#8, 0x02#8, 0x2B#8, 0x01#8, 0xCC#8].map some) ∧
    ([some 0xFF#8, some 0xFF#8].take (0#16).toNat = [].map some) ∧
    built.Ready ∧ built.len = some 3#8 ∧
    none ∈ [some 0xFF#8, some 0xFF#8, some 0x01#8, some 0x03#8, some 0x00#8, some 0x20#8, none].take (7#16).toNat := by
  decide

theorem witness_SerializeWithoutLength :
    State.reset.Ready ∧ State.reset.len = none ∧ 4 ≤ (4#16).toNat ∧ (2#16).toNat ≤ 2 ∧ (3#16).toNat = 3 ∧
    State.reset.id = none ∧ ({ State.reset with id := some 1 } : State).Ready ∧
    ({ State.reset with id := some 1 } : State).id = some 1#8 := by decide

theorem witness_RegisterAccessors :
    read1.Ready ∧ read1.id = some 1#8 ∧ read1.cmd = some 2#8 ∧ read1.len = some 4#8 ∧ read1.chk = some 0xCC#8 ∧
    State.reset.Ready ∧ State.reset.id = none ∧ State.reset.cmd = none ∧ State.reset.len = none ∧
    State.reset.chk = none := by decide

/-- V30: the last cell written, the first `⊥`, and the first index out of bounds. -/
theorem witness_ReadParameter :
    read1.Ready ∧ read1.cfg.capacity ≤ (4#16).toNat ∧ ((3#16).toNat < read1.cfg.capacity ∧ read1.par.read (3#16).toNat = none) ∧
    ((1#16).toNat < read1.cfg.capacity ∧ read1.par.read (1#16).toNat = some 1#8) := by decide

/-- V7: a packet that fills the buffer of capacity 1 and one that fills that of 253. -/
theorem witness_PacketRoundTrip :
    (resetWith 1).Ready ∧ (resetWith 1).pst = .idle ∧ (resetWith 1).cfg.capacity ≤ 253 ∧ (1#8) ≠ 0xFF#8 ∧
    [0x20#8].length ≤ (resetWith 1).cfg.capacity ∧ 6 + [0x20#8].length ≤ (7#16).toNat ∧
    (List.replicate 253 0#8).length ≤ (resetWith 253).cfg.capacity ∧
    6 + (List.replicate 253 0#8).length ≤ (259#16).toNat := by
  rw [List.length_replicate]; decide

/-- The last legal offset of each width, with bytes there, with a `⊥` byte there, and the first illegal offset. -/
theorem witness_TableRead :
    fresh.Ready ∧ fresh.cfg.numCtl < (50#16).toNat + 1 ∧ (49#16).toNat + 1 ≤ fresh.cfg.numCtl ∧
    (46#16).toNat + 4 ≤ fresh.cfg.numCtl ∧
    ((0 < 1) ∧ (populateEntry 0 State.reset).tbl.read (0 + 0) = none) ∧
    ([0x01#8, 0xFA#8].length = 2 ∧ ∀ k, k < 2 → (populateEntry 4 fresh).tbl.read (4 + k) = [0x01#8, 0xFA#8][k]?) := by
  decide

theorem witness_PopulateHook : fresh.cfg.device = .base ∧ (derived fresh).cfg.device = .derived 7 := by decide

theorem witness_BaseReadIsIdempotent :
    fresh.cfg.device = .base ∧ fresh.Ready ∧
    (after (exec (.tgetU8 49) fresh)).map (·.fault) = some false := by decide

theorem witness_TableWrite :
    fresh.Ready ∧ fresh.cfg.numCtl < (49#16).toNat + 2 ∧ (48#16).toNat + 2 ≤ fresh.cfg.numCtl := by decide

theorem witness_ModifiedHook :
    fresh.cfg.device = .base ∧ (derived fresh).cfg.device = .derived 7 ∧ fresh.tbl.read 4 = some 1#8 := by decide

/-- At `OFF_BAUD`, and at offset 3, where a 16-bit write covers the baud byte. -/
theorem witness_BaudSideEffect :
    fresh.cfg.device = .base ∧ fresh.Ready ∧ (4#16).toNat + 1 ≤ fresh.cfg.numCtl ∧ (3#16).toNat + 2 ≤ fresh.cfg.numCtl ∧
    (after (exec (.tsetU8 4 3) fresh)).isSome ∧ (after (exec (.tsetU16 3 0x0201) fresh)).isSome := by decide

theorem witness_TableWriteFrame :
    fresh.cfg.device = .base ∧ fresh.Ready ∧ (46#16).toNat + 4 ≤ fresh.cfg.numCtl ∧
    (after (exec (.tsetU32 46 7) fresh)).isSome ∧ (45 < (46#16).toNat ∧ (46#16).toNat + 4 ≤ 50) := by decide

/-- V32: `TSET.U32 0x2C`, then `TGET.U16 0x2D`. -/
theorem witness_WriteThenRead :
    fresh.cfg.device = .base ∧ fresh.Ready ∧ (0x2C#16).toNat + 4 ≤ fresh.cfg.numCtl ∧
    (0x2D#16).toNat = (0x2C#16).toNat + 1 ∧ 1 + 2 ≤ 4 ∧
    (4, Instr.tsetU32) ∈ sets ∧ (2, false, Instr.tgetU16) ∈ gets := by
  refine ⟨rfl, by decide, by decide, by decide, by decide, by simp [sets], by simp [gets]⟩

theorem witness_TableReset :
    read1.Ready ∧ read1.cfg.legal ∧ read1.cfg.device = .base ∧ (derived read1).Ready ∧ (derived read1).cfg.legal ∧
    (derived read1).cfg.device = .derived 7 := by decide

theorem witness_TableResetIdempotent : State.reset.Ready ∧ read1.Ready ∧ State.reset.cfg = read1.cfg := by decide

theorem witness_LoadTable :
    State.reset.Ready ∧ State.reset.cfg.legal ∧ State.reset.cfg.numPersistent < 65536 ∧
    (List.replicate 24 0x10#8).length = State.reset.cfg.numPersistent ∧
    (after (exec (.load .failed) State.reset)).isSome ∧ 49 < State.reset.cfg.numCtl := by decide

theorem witness_LoadFailureEqualsReset : fresh.Ready ∧ read1.Ready ∧ fresh.cfg = read1.cfg := by decide

/-- The image of V38, and a table whose last persistent byte is `⊥`. -/
theorem witness_SaveTable :
    fresh.Ready ∧ fresh.cfg.numPersistent < 65536 ∧ ([0, 0, 0, 1, 1, 0xFA] ++ List.replicate 18 (0 : Byte)).length = fresh.cfg.numPersistent ∧
    (∀ a, a < fresh.cfg.numPersistent → fresh.tbl.read a = ([0, 0, 0, 1, 1, 0xFA] ++ List.replicate 18 (0 : Byte))[a]?) ∧
    (23 < fresh.cfg.numPersistent ∧ ({ fresh with tbl := freshTable.take 23 } : State).tbl.read 23 = none) := by decide

theorem witness_MalformedAnswerStuck :
    fresh.Ready ∧ (List.replicate 23 0x10#8).length ≠ fresh.cfg.numPersistent ∧
    (List.replicate 25 0x10#8).length ≠ fresh.cfg.numPersistent := by decide

theorem witness_SaveThenLoadRestores :
    fresh.Ready ∧ read1.Ready ∧ fresh.cfg.legal ∧ read1.cfg = fresh.cfg ∧
    portsOf (exec (.save .ok) fresh) =
      some { res := 0, ev := [.storeSave 0 24 ([0, 0, 0, 1, 1, 0xFA] ++ List.replicate 18 0)] } := by decide

theorem witness_FramerIgnoresTable : IsFramer (.pb 0) = true ∧ IsFramer .rchk = true := by decide

theorem witness_TableIgnoresFramer : IsFramer (.tgetU8 0) = false ∧ IsFramer .trst = false := by decide

/-- One operation for each register, with the register changed. -/
theorem witness_RegisterWriters :
    (after (exec (.pb 0xFF) State.reset)).map (·.pst) = some .sync1Seen ∧
    (after (exec (.sid 1) State.reset)).map (·.id) = some (some 1#8) ∧
    (after (exec (.spar [7]) State.reset)).map (fun t => (t.len, t.par)) = some (some 3#8, [(0, 7#8)]) ∧
    (after (exec (.scmd 1) State.reset)).map (·.cmd) = some (some 1#8) ∧
    (after (exec .uck built)).map (·.chk) = some (some 0xDB#8) := by decide

theorem witness_NoStoreForms :
    (after (exec (.save .ok) fresh)).isSome ∧ (after (exec (.tgetU8 3) fresh)).isSome ∧ fresh.cfg.device = .base := by decide

theorem witness_DefaultOutputs :
    (after (exec .prst read1)).isSome ∧ writesPorts .prst = (false, false, false, false) ∧
    portsOf (exec (.load .failed) State.reset) = some { ev := [.storeLoad 0 24] } ∧
    (portsOf (exec (.save .ok) fresh)).map (fun p => p.ev.length) = some 1 := by decide

theorem witness_WrittenStaysWritten :
    (after (exec (.spar []) read1)).isSome ∧ read1.id.isSome ∧ (read1.par.read 1).isSome ∧
    fresh.cfg.legal ∧ 49 < fresh.cfg.numCtl ∧ (fresh.tbl.read 49).isSome ∧
    (after (exec (.load .failed) fresh)).isSome ∧
    (derived fresh).cfg.legal ∧ ((derived fresh).tbl.read 49).isSome ∧
    (after (exec (.load (.okData (List.replicate 24 0))) (derived fresh))).isSome := by decide

/-- A state in the middle of a frame meets the invariant, and a step runs from it. -/
theorem witness_StepKeepsInvariant :
    (issued (midBody 4 4 1 0x32) (.op { opw := 0x08, b := 1 })).Inv ∧
    (after (step (issued (midBody 4 4 1 0x32) (.op { opw := 0x08, b := 1 })))).isSome := by
  refine ⟨⟨by decide, by decide, by decide, by decide, by decide, by decide, ?_, by decide, by decide, ⟨rfl, rfl, rfl⟩⟩, by decide⟩
  intro i h
  cases h
  decide

/-- The largest and the smallest legal parameters. -/
theorem witness_ResetHasInvariant :
    ({ Config.vectors with capacity := 253, numCtl := 65536, numPersistent := 65536 } : Config).legal ∧
    ({ Config.vectors with capacity := 0, numCtl := 6, numPersistent := 6 } : Config).legal := by decide

end Sys2Proof.Tests
end

section
/-! PROOFS. What an operation can leave behind, said once: an inversion of the step, of each body that is done, and what
those effects do to the invariant and to the values already written. -/

namespace Sys2Proof.Machine

open Sys2Proof.Claims (IsFramer)

/-! ## The step -/

/-- All a step that answers a next state can have done: wait, reset, run an operation, or answer a reserved word. -/
theorem step_next {s s' : State} (h : step s = .next s') :
    (s.inputs = [] ∧ s' = s.quiet) ∨
    (∃ rest, s.inputs = .rst :: rest ∧ s' = powerOnReset { s with inputs := rest }) ∨
    (∃ r rest i, s.inputs = .op r :: rest ∧ decode r = .ok i ∧ exec i { s with inputs := rest } = .next s') ∨
    (∃ r rest, s.inputs = .op r :: rest ∧ decode r = .error .reservedOp ∧
      reservedWord r.opw { s with inputs := rest } = .next s') := by
  match hi : s.inputs with
  | [] =>
    rw [step_idle hi] at h
    cases h
    exact .inl ⟨rfl, rfl⟩
  | .rst :: rest =>
    rw [step_rst hi] at h
    cases h
    exact .inr (.inl ⟨rest, rfl, rfl⟩)
  | .op r :: rest =>
    rw [step_op hi] at h
    match hd : decode r with
    | .ok i => exact .inr (.inr (.inl ⟨r, rest, i, rfl, hd, by simpa only [hd] using h⟩))
    | .error .reservedOp => exact .inr (.inr (.inr ⟨r, rest, rfl, hd, by simpa only [hd] using h⟩))
    | .error .seqTooLong => simp [hd] at h

/-! ## An operation on a block that takes operations, by how its body ends -/

theorem exec_done {i : Instr} {s t : State} (h : s.Ready) (hb : bodyOf i s.quiet = .done t) : exec i s = .next t :=
  (exec_eq_operate i s).trans (operate_done h hb)

theorem exec_raise {i : Instr} {s : State} {c : Cause} (h : s.Ready) (hb : bodyOf i s.quiet = .raise c) :
    exec i s = .next (s.enterFault c (opwOf i)) :=
  (exec_eq_operate i s).trans (operate_raise h hb)

theorem exec_stuck {i : Instr} {s : State} {f : Fault} (h : s.Ready) (hb : bodyOf i s.quiet = .stuck f) :
    exec i s = .fault f :=
  (exec_eq_operate i s).trans (operate_stuck h hb)

/-! ## What one received byte can do -/

/-- What a `PB` that is done can have done to the state, by parser state (R111 to R119). -/
inductive Received (b : Byte) (s : State) : State → Prop where
  /-- A byte that only moves the parser among the sync states (R111 to R113). -/
  | sync {p : ParserState} (hs : s.pst = .idle ∨ s.pst = .sync1Seen ∨ s.pst = .sync2Seen)
      (hp : p = .idle ∨ p = .sync1Seen ∨ p = .sync2Seen) : Received b s { s with pst := p }
  /-- The id byte (R113). -/
  | id (hs : s.pst = .sync2Seen) (hb : b ≠ 0xFF#8) :
      Received b s { s with id := some b, chk := some b, pst := .idReceived }
  /-- The length byte (R114). -/
  | length {c : Byte} (hs : s.pst = .idReceived) (hc : s.chk = some c) :
      Received b s { s with len := some b, chk := some (c + b), pst := .lengthReceived }
  /-- The command byte (R115). -/
  | command {c : Byte} (hs : s.pst = .lengthReceived) (hc : s.chk = some c) :
      Received b s { s with cmd := some b, chk := some (c + b), idx := some 0#8, pst := .receivingBody }
  /-- A parameter byte, stored below the capacity only (R116). -/
  | param {c l i : Byte} (hs : s.pst = .receivingBody) (hc : s.chk = some c) (hl : s.len = some l) (hi : s.idx = some i)
      (hlt : i.toNat < numParams l) :
      Received b s { s with
        chk := some (c + b)
        par := if i.toNat < s.cfg.capacity then s.par.write i.toNat b else s.par
        idx := some (i + 1#8) }
  /-- The checksum byte (R117, R118). -/
  | checksum {c l i : Byte} (hs : s.pst = .receivingBody) (hc : s.chk = some c) (hl : s.len = some l)
      (hi : s.idx = some i) (hge : numParams l ≤ i.toNat) :
      Received b s { s with
        pst := .idle
        chk := some b
        ports := { st := frameResult s.cfg.capacity i (~~~c == b) } }
  /-- A byte in an unused parser state (R119). -/
  | unused (hs : s.pst = .unused6 ∨ s.pst = .unused7) : Received b s s

theorem accumulate_done {b : Byte} {s s' : State} {k : Byte → OpResult} (h : accumulate b s k = .done s') :
    ∃ c, s.chk = some c ∧ k (c + b) = .done s' := by
  rcases accumulate_cases b s k with ⟨c, hc, hk⟩ | ⟨-, hk⟩
  · exact ⟨c, hc, hk ▸ h⟩
  · rw [hk] at h
    cases h

theorem receiveChecksum_done {b i : Byte} {s s' : State} (h : receiveChecksum b i s = .done s') :
    ∃ c, s.chk = some c ∧
      s' = { s with pst := .idle, chk := some b, ports := { st := frameResult s.cfg.capacity i (~~~c == b) } } := by
  unfold receiveChecksum at h
  split at h
  next c hc =>
    cases h
    refine ⟨c, hc, ?_⟩
    by_cases hb : ~~~c = b <;> simp [State.drive, hb]
  next => cases h

/-- Every `PB` that is done is one of the cases of `Received`. -/
theorem receiveByte_done {b : Byte} {s s' : State} (h : receiveByte b s = .done s') : Received b s s' := by
  unfold receiveByte at h
  split at h
  case h_1 hs =>
    cases h
    split
    · exact .sync (.inl hs) (.inr (.inl rfl))
    · exact .sync (p := s.pst) (.inl hs) (.inl hs)
  case h_2 hs =>
    cases h
    split
    · exact .sync (.inr (.inl hs)) (.inr (.inr rfl))
    · exact .sync (.inr (.inl hs)) (.inl rfl)
  case h_3 hs =>
    cases h
    split
    · exact .sync (p := s.pst) (.inr (.inr hs)) (.inr (.inr hs))
    next hb => exact .id hs hb
  case h_4 hs =>
    obtain ⟨c, hc, hk⟩ := accumulate_done h
    cases hk
    exact .length hs hc
  case h_5 hs =>
    obtain ⟨c, hc, hk⟩ := accumulate_done h
    cases hk
    exact .command hs hc
  case h_6 hs =>
    split at h
    next l i hl hi =>
      split at h
      next hlt =>
        obtain ⟨c, hc, hk⟩ := accumulate_done h
        cases hk
        exact .param hs hc hl hi hlt
      next hge =>
        obtain ⟨c, hc, rfl⟩ := receiveChecksum_done h
        exact .checksum hs hc hl hi (Nat.le_of_not_lt hge)
    next => cases h
  case h_7 hs =>
    cases h
    exact .unused (.inl hs)
  case h_8 hs =>
    cases h
    exact .unused (.inr hs)

/-! ## What an operation can do to the table -/

/-- What every table operation and hook keeps of the table: its form, its size, and every value in it (R10, R29). -/
structure TableKept (s : State) (m : Memory) : Prop where
  wf : s.tbl.wf → m.wf
  below : s.cfg.legal → s.tbl.below s.cfg.numCtl → m.below s.cfg.numCtl
  isSome : ∀ a, a < s.cfg.numCtl → (s.tbl.read a).isSome → (m.read a).isSome

theorem tableKept_populateEntry (off : Nat) (s : State) : TableKept s (populateEntry off s).tbl where
  wf := wf_populateEntry off
  below _ := below_populateEntry off
  isSome _ ha := isSome_populateEntry off ha

theorem isSome_writeBytes {m : Memory} {a : Nat} (off : Nat) (bs : List Byte) (h : (m.read a).isSome) :
    ((m.writeBytes off bs).read a).isSome := by
  induction bs generalizing m off with
  | nil => exact h
  | cons b bs ih => exact ih _ (isSome_write b h)

theorem tableKept_tableSet {s : State} {off : PortA} {n : Nat} (v : Word) (hb : off.toNat + n ≤ s.cfg.numCtl) :
    TableKept s (entryModified off.toNat { s with tbl := s.tbl.writeLE off.toNat n v }).tbl where
  wf h := wf_entryModified _ (Memory.wf_writeLE _ _ _ h)
  below _ h := below_entryModified _ (Memory.below_writeLE v h hb)
  isSome _ ha h := isSome_entryModified _ ha (isSome_writeBytes _ _ h)

theorem tableKept_resetTable (s : State) : TableKept s (resetTable s.cfg) where
  wf _ := wf_resetTable _
  below hl _ := below_resetTable hl
  isSome _ ha _ := isSome_resetTable ha

theorem tableKept_loadedTable {s : State} {d : List Byte} (hd : d.length = s.cfg.numPersistent) :
    TableKept s (loadedTable s.cfg d) where
  wf _ := wf_loadedTable _ _
  below hl _ := below_loadedTable (by obtain ⟨-, -, hPN, -⟩ := hl; omega)
  isSome _ ha _ := isSome_loadedTable d ha

/-! ## What each body that is done can have done -/

/-- The effect of an operation's body on the state, by what it may write. -/
inductive Effect (s : State) : Instr → State → Prop where
  | received {b : Byte} {t : State} (h : Received b s t) : Effect s (.pb b) t
  | abandoned : Effect s .prst { s with pst := .idle }
  | idSet (b : Byte) : Effect s (.sid b) { s with id := some b }
  | commandSet (b : Byte) : Effect s (.scmd b) { s with cmd := some b }
  | checksumSet (c : Byte) : Effect s .uck { s with chk := some c }
  | paramsSet (q : List Byte) (l : Byte) :
      Effect s (.spar q) { s with par := s.par.writeBytes 0 (q.take s.cfg.capacity), len := some l }
  /-- Accessors, `SER` and `SAVE` drive the outputs alone. -/
  | outputs {i : Instr} (p : Ports) : Effect s i (s.drive p)
  /-- Table operations change the table, the draw counter and the outputs alone. -/
  | tableSet {i : Instr} {m : Memory} (hi : IsFramer i = false) (h : TableKept s m) (d : Nat) (p : Ports) :
      Effect s i { s with tbl := m, draws := d, ports := p }

theorem readOut_effect {r : Option Byte} {f : Byte → Word} {s s' : State} (i : Instr) (h : readOut r f s = .done s') :
    Effect s i s' := by
  rcases readOut_cases r f s with ⟨b, -, hb⟩ | ⟨-, hb⟩ <;> rw [hb] at h <;> cases h
  exact .outputs _

theorem readParam_effect {i : PortA} {s s' : State} (h : readParam i s = .done s') : Effect s (.rpar i) s' := by
  unfold readParam at h
  split at h
  · cases h
  · exact readOut_effect _ h

theorem updateChecksum_effect {s s' : State} (h : updateChecksum s = .done s') : Effect s .uck s' := by
  unfold updateChecksum at h
  split at h <;> cases h
  exact .checksumSet _

theorem serialize_effect {m : PortA} {s s' : State} (h : serialize m s = .done s') : Effect s (.ser m) s' := by
  unfold serialize at h
  split at h <;> cases h
  exact .outputs _

theorem tableGet_effect {n : Nat} {signed : Bool} {off : PortA} {s s' : State} {i : Instr} (hi : IsFramer i = false)
    (h : tableGet n signed off s = .done s') : Effect s i s' := by
  rcases tableGet_cases n signed off s with ⟨-, hg⟩ | ⟨-, -, hg⟩ | ⟨-, v, -, hg⟩ <;> rw [hg] at h <;> cases h
  rw [populateEntry_eq]
  exact .tableSet hi (tableKept_populateEntry _ s) _ _

theorem tableSet_effect {n : Nat} {off : PortA} {v : Word} {s s' : State} {i : Instr} (hi : IsFramer i = false)
    (h : tableSet n off v s = .done s') : Effect s i s' := by
  rcases tableSet_cases n off v s with ⟨-, hg⟩ | ⟨hb, hg⟩ <;> rw [hg] at h <;> cases h
  rw [entryModified_eq]
  exact .tableSet hi (tableKept_tableSet v hb) _ _

/-- What `loadTable` can do (R211, R210): the answer over a zeroed table, the TRST-body's table, or no outcome. -/
theorem loadTable_cases (ans : StorageAnswer) (s : State) :
    (∃ d, ans = .okData d ∧ d.length = s.cfg.numPersistent ∧
      loadTable ans s =
        .done { s with
          tbl := loadedTable s.cfg d
          ports := { s.ports with ev := s.ports.ev ++ [.storeLoad 0#16 (storeCount s.cfg)] } }) ∨
    (ans = .failed ∧
      loadTable ans s =
        .done { s with
          tbl := resetTable s.cfg
          ports := { s.ports with ev := s.ports.ev ++ [.storeLoad 0#16 (storeCount s.cfg)] } }) ∨
    loadTable ans s = .stuck .storageAnswerShape := by
  cases ans with
  | okData d =>
    by_cases hd : d.length = s.cfg.numPersistent
    · exact .inl ⟨d, rfl, hd, if_pos hd⟩
    · exact .inr (.inr (if_neg hd))
  | ok => exact .inr (.inr rfl)
  | failed => exact .inr (.inl ⟨rfl, rfl⟩)

theorem loadTable_effect {ans : StorageAnswer} {s s' : State} (h : loadTable ans s = .done s') :
    Effect s (.load ans) s' := by
  rcases loadTable_cases ans s with ⟨d, -, hd, hb⟩ | ⟨-, hb⟩ | hb <;> rw [hb] at h <;> cases h
  · exact .tableSet rfl (tableKept_loadedTable hd) s.draws _
  · exact .tableSet rfl (tableKept_resetTable s) s.draws _

theorem saveTable_effect {ans : StorageAnswer} {s s' : State} (h : saveTable ans s = .done s') :
    Effect s (.save ans) s' := by
  unfold saveTable at h
  split at h
  · cases h
  · cases ans <;> cases h
    all_goals exact .outputs _

/-- Every body that is done had one of the effects of `Effect`. -/
theorem bodyOf_effect {i : Instr} {s s' : State} (h : bodyOf i s = .done s') : Effect s i s' := by
  cases i with
  | pb b => exact .received (receiveByte_done h)
  | prst => cases h; exact .abandoned
  | uck => exact updateChecksum_effect h
  | ser m => exact serialize_effect h
  | sid b => cases h; exact .idSet b
  | scmd b => cases h; exact .commandSet b
  | spar q => cases h; exact .paramsSet q _
  | rid | rcmd | rlen | rnp | rchk => exact readOut_effect _ h
  | rpar k => exact readParam_effect h
  | tgetU8 off | tgetS8 off | tgetU16 off | tgetS16 off | tgetU32 off | tgetS32 off => exact tableGet_effect rfl h
  | tsetU8 off v | tsetS8 off v | tsetU16 off v | tsetS16 off v | tsetU32 off v | tsetS32 off v =>
    exact tableSet_effect rfl h
  | load ans => exact loadTable_effect h
  | save ans => exact saveTable_effect h
  | trst => cases h; exact .tableSet rfl (tableKept_resetTable s) s.draws s.ports

end Sys2Proof.Machine
end

section
/-! PROOFS. What every effect keeps: the invariant, which holds at reset and which every step keeps, and the values already
written. -/

namespace Sys2Proof.Machine

/-! ## Updates that leave what the invariant speaks of -/

theorem State.Inv.drive {s : State} (h : s.Inv) (p : Ports) : (s.drive p).Inv := { h with }

theorem State.Inv.quiet {s : State} (h : s.Inv) : s.quiet.Inv := h.drive _

theorem State.Inv.withInputs {s : State} (h : s.Inv) (rest : List HostInput) : ({ s with inputs := rest } : State).Inv :=
  { h with }

theorem State.Inv.withTable {s : State} (h : s.Inv) {m : Memory} (hm : TableKept s m) (d : Nat) (p : Ports) :
    ({ s with tbl := m, draws := d, ports := p } : State).Inv :=
  { h with tbl_wf := hm.wf h.tbl_wf, tbl_below := hm.below h.cfg_legal h.tbl_below }

/-- A fault entry records a cause, so the fault record stays consistent (R236). -/
theorem State.Inv.enterFault {s : State} (h : s.Inv) {c : Cause} (hc : c ≠ .none) (w : Byte) : (s.enterFault c w).Inv :=
  { h with fault_cause := ⟨fun _ => hc, fun _ => rfl⟩, fop_clear := fun hf => nomatch hf }

/-! ## Reset -/

theorem inv_powerOn {cfg : Config} (h : cfg.legal) : (State.powerOn cfg).Inv where
  cfg_legal := h
  par_wf := List.Pairwise.nil
  par_below := fun _ hc => nomatch hc
  tbl_wf := List.Pairwise.nil
  tbl_below := fun _ hc => nomatch hc
  pst_legal := ⟨nofun, nofun⟩
  idx_range := nofun
  fault_cause := ⟨nofun, fun hc => absurd rfl hc⟩
  fop_clear := fun _ => rfl
  mid_frame := trivial

theorem inv_powerOnReset {s : State} (h : s.cfg.legal) : (powerOnReset s).Inv := { inv_powerOn h with }

/-! ## Operations -/

/-- A frame in progress keeps its registers where the parser state stays and no register loses its value. -/
theorem midFrameWritten_mono {s t : State} (h : s.MidFrameWritten) (hp : t.pst = s.pst)
    (hc : s.chk.isSome → t.chk.isSome) (hl : s.len.isSome → t.len.isSome) (hi : s.idx.isSome → t.idx.isSome) :
    t.MidFrameWritten := by
  unfold State.MidFrameWritten at h ⊢
  rw [hp]
  cases hs : s.pst <;> simp only [hs] at h ⊢
  case idReceived => exact hc h
  case lengthReceived => exact h.imp hc hl
  case receivingBody => exact h.imp hc (And.imp hl hi)

theorem numParams_le (l : Byte) : numParams l ≤ 253 := by
  have := l.isLt
  unfold numParams
  omega

/-- A received byte keeps the invariant: `idx` counts parameters up to a declared count of at most 253, only cells below the
capacity are written, and each parser state is entered with the registers it reads (R26, R110, R116). -/
theorem Received.inv {b : Byte} {s t : State} (h : Received b s t) (hs : s.Inv) : t.Inv := by
  cases h with
  | sync _ hp =>
    rcases hp with rfl | rfl | rfl
    all_goals exact { hs with pst_legal := ⟨nofun, nofun⟩, mid_frame := trivial }
  | id => exact { hs with pst_legal := ⟨nofun, nofun⟩, mid_frame := rfl }
  | length => exact { hs with pst_legal := ⟨nofun, nofun⟩, mid_frame := ⟨rfl, rfl⟩ }
  | command hp hc =>
    have hmid := hs.mid_frame
    rw [State.MidFrameWritten, hp] at hmid
    exact { hs with
      pst_legal := ⟨nofun, nofun⟩
      idx_range := fun i hi => by cases hi; decide
      mid_frame := ⟨rfl, hmid.2, rfl⟩ }
  | @param c l i hp hc hl hi hlt =>
    have hl253 := numParams_le l
    exact { hs with
      par_wf := by
        dsimp only
        split
        · exact Memory.wf_write _ _ hs.par_wf
        · exact hs.par_wf
      par_below := by
        dsimp only
        split
        next hcap => exact Memory.below_write _ hs.par_below hcap
        next => exact hs.par_below
      idx_range := fun j hj => by
        cases hj
        simp only [BitVec.toNat_add, BitVec.toNat_ofNat]
        omega
      mid_frame := midFrameWritten_mono hs.mid_frame rfl (fun _ => rfl) (fun h => h) (fun _ => rfl) }
  | checksum => exact { hs with pst_legal := ⟨nofun, nofun⟩, mid_frame := trivial }
  | unused => exact hs

theorem Effect.inv {s t : State} {i : Instr} (h : Effect s i t) (hs : s.Inv) : t.Inv := by
  cases h with
  | received h => exact h.inv hs
  | abandoned => exact { hs with pst_legal := ⟨nofun, nofun⟩, mid_frame := trivial }
  | idSet b => exact { hs with }
  | commandSet b => exact { hs with }
  | checksumSet c =>
    exact { hs with mid_frame := midFrameWritten_mono hs.mid_frame rfl (fun _ => rfl) (fun h => h) (fun h => h) }
  | paramsSet q l =>
    exact { hs with
      par_wf := Memory.wf_writeBytes _ _ hs.par_wf
      par_below := Memory.below_writeBytes _ hs.par_below (by simp)
      mid_frame := midFrameWritten_mono hs.mid_frame rfl (fun h => h) (fun _ => rfl) (fun h => h) }
  | outputs p => exact hs.drive p
  | tableSet _ hm d p => exact hs.withTable hm d p

/-- An operation keeps the invariant: on a faulted block it does nothing, a fault it raises changes the fault record alone, and
what its body does is an `Effect`. -/
theorem exec_inv {i : Instr} {s t : State} (hs : s.Inv) (h : exec i s = .next t) : t.Inv := by
  rcases exec_next h with ⟨-, -, rfl⟩ | ⟨-, hb⟩ | ⟨-, c, hb, rfl⟩
  · exact hs.quiet
  · exact (bodyOf_effect hb).inv hs.quiet
  · exact hs.enterFault (bodyOf_raise hb).1 _

theorem reservedWord_inv {w : Byte} {s t : State} (hs : s.Inv) (h : reservedWord w s = .next t) : t.Inv := by
  rcases operate_next h with ⟨-, -, rfl⟩ | ⟨-, hb⟩ | ⟨-, c, hb, rfl⟩
  · exact hs.quiet
  · cases hb
  · cases hb
    exact hs.enterFault (by decide) w

theorem step_inv {s t : State} (hs : s.Inv) (h : step s = .next t) : t.Inv := by
  rcases step_next h with ⟨-, rfl⟩ | ⟨rest, -, rfl⟩ | ⟨r, rest, i, -, -, he⟩ | ⟨r, rest, -, -, hw⟩
  · exact hs.quiet
  · exact inv_powerOnReset hs.cfg_legal
  · exact exec_inv (hs.withInputs rest) he
  · exact reservedWord_inv (hs.withInputs rest) hw

/-! ## Values already written (R10) -/

/-- No register or cell that holds a value in `s` is `⊥` in `t`. -/
structure WrittenKept (s t : State) : Prop where
  id : s.id.isSome → t.id.isSome
  len : s.len.isSome → t.len.isSome
  cmd : s.cmd.isSome → t.cmd.isSome
  chk : s.chk.isSome → t.chk.isSome
  idx : s.idx.isSome → t.idx.isSome
  par : ∀ a, (s.par.read a).isSome → (t.par.read a).isSome
  tbl : ∀ a, a < s.cfg.numCtl → (s.tbl.read a).isSome → (t.tbl.read a).isSome

theorem WrittenKept.refl (s : State) : WrittenKept s s where
  id h := h
  len h := h
  cmd h := h
  chk h := h
  idx h := h
  par _ h := h
  tbl _ _ h := h

/-- A received byte gives each register it writes a value, and stores a parameter. -/
theorem Received.writtenKept {b : Byte} {s t : State} (h : Received b s t) : WrittenKept s t := by
  cases h with
  | sync => exact { WrittenKept.refl s with }
  | id => exact { WrittenKept.refl s with id := fun _ => rfl, chk := fun _ => rfl }
  | length => exact { WrittenKept.refl s with len := fun _ => rfl, chk := fun _ => rfl }
  | command => exact { WrittenKept.refl s with cmd := fun _ => rfl, chk := fun _ => rfl, idx := fun _ => rfl }
  | param =>
    exact { WrittenKept.refl s with
      chk := fun _ => rfl
      idx := fun _ => rfl
      par := fun a ha => by
        dsimp only
        split
        · exact isSome_write _ ha
        · exact ha }
  | checksum => exact { WrittenKept.refl s with chk := fun _ => rfl }
  | unused => exact .refl s

theorem Effect.writtenKept {s t : State} {i : Instr} (h : Effect s i t) : WrittenKept s t := by
  cases h with
  | received h => exact h.writtenKept
  | abandoned => exact { WrittenKept.refl s with }
  | idSet => exact { WrittenKept.refl s with id := fun _ => rfl }
  | commandSet => exact { WrittenKept.refl s with cmd := fun _ => rfl }
  | checksumSet => exact { WrittenKept.refl s with chk := fun _ => rfl }
  | paramsSet =>
    exact { WrittenKept.refl s with len := fun _ => rfl, par := fun _ ha => isSome_writeBytes _ _ ha }
  | outputs => exact { WrittenKept.refl s with }
  | tableSet _ hm => exact { WrittenKept.refl s with tbl := hm.isSome }

theorem exec_writtenKept {i : Instr} {s t : State} (h : exec i s = .next t) : WrittenKept s t := by
  rcases exec_next h with ⟨-, -, rfl⟩ | ⟨-, hb⟩ | ⟨-, c, -, rfl⟩
  · exact { WrittenKept.refl s with }
  · exact { (bodyOf_effect hb).writtenKept with }
  · exact { WrittenKept.refl s with }

end Sys2Proof.Machine
end

section
/-! PROOFS. The remaining facts the scope statements need: the faulted block, the receiver's missing registers, the hooks of a
derived device, and the tables that persistence leaves. -/

namespace Sys2Proof.Machine

open Sys2Proof.Claims (resetByte)

/-! ## A request the ports cannot carry (R7) -/

theorem decode_spar_tooLong {r : Request} (hw : r.opw = 0x38#8) (hq : maxSeq < r.seq.length) :
    decode r = .error .seqTooLong := by
  have hop : (opField (0x38#8)).toNat = 0x07 := rfl
  have hlow : lowField (0x38#8) = 0#3 := rfl
  simp only [decode, hw, hop, decodeSpar, hlow, if_true, if_neg (Nat.not_le_of_lt hq)]

/-! ## A faulted block (R12, R237) -/

/-- A run of `k + 1` steps is a step with a next state and a run of `k` steps from it. -/
theorem run_succ_next {M : Host.Core} {k : Nat} {s t : M.State} (h : M.run (k + 1) s = .next t) :
    ∃ s', M.step s = .next s' ∧ M.run k s' = .next t := by
  rw [Host.Core.run] at h
  split at h
  next s' hstep => exact ⟨s', hstep, h⟩
  next => cases h
  next => cases h

theorem operate_of_fault {s t : State} {w : Byte} {body : State → OpResult} (hf : s.fault = true)
    (h : operate w s body = .next t) : t = s.quiet := by
  rcases operate_next h with ⟨-, -, ht⟩ | ⟨hr, -⟩ | ⟨hr, -⟩
  · exact ht
  · exact absurd hf (by simp [hr.1])
  · exact absurd hf (by simp [hr.1])

/-- Without a power-on reset next, a step of a faulted block takes the next input and drives the default outputs. -/
theorem step_of_fault {s t : State} (hf : s.fault = true) (hr : HostInput.rst ∉ s.inputs) (h : step s = .next t) :
    t = { s with inputs := s.inputs.drop 1, ports := {} } := by
  rcases step_next h with ⟨hi, rfl⟩ | ⟨rest, hi, -⟩ | ⟨r, rest, i, hi, -, he⟩ | ⟨r, rest, hi, -, hw⟩
  · rw [hi, List.drop_nil, ← hi]
    rfl
  · exact absurd (by simp [hi]) hr
  · rw [exec_eq_operate] at he
    obtain rfl := operate_of_fault (s := { s with inputs := rest }) hf he
    rw [hi]
    rfl
  · obtain rfl := operate_of_fault (s := { s with inputs := rest }) hf hw
    rw [hi]
    rfl

/-! ## The receiver (R110) -/

theorem accumulate_raise {b : Byte} {s : State} {k : Byte → OpResult} (h : s.chk = none) :
    accumulate b s k = .raise .unwritten := by
  rw [accumulate, h]

/-- In the body of a frame, a `⊥` among the registers read raises `Unwritten`, whichever byte is due. -/
theorem receiveByte_body_raise {b : Byte} {s : State} (hp : s.pst = .receivingBody)
    (h : s.len = none ∨ s.idx = none ∨ s.chk = none) : receiveByte b s = .raise .unwritten := by
  unfold receiveByte
  rw [hp]
  dsimp only
  split
  next l i hl hi =>
    have hc : s.chk = none := by simpa [hl, hi] using h
    split
    · exact accumulate_raise hc
    · rw [receiveChecksum, hc]
  next => rfl

theorem receiveByte_header_raise {b : Byte} {s : State} (hp : s.pst = .idReceived ∨ s.pst = .lengthReceived)
    (hc : s.chk = none) : receiveByte b s = .raise .unwritten := by
  unfold receiveByte
  rcases hp with hp | hp <;> rw [hp] <;> exact accumulate_raise hc

/-! ## The hooks of a derived device (R6, R177, R188, R213) -/

theorem populateEntry_derived {s : State} {n : Nat} (h : s.cfg.device = .derived n) (off : Nat) :
    populateEntry off s =
      { s with
        tbl := s.tbl.overlay s.cfg.numCtl (Config.extPopulate n s.draws s.tbl off)
        draws := s.draws + 1 } := by
  unfold populateEntry
  rw [h]

theorem entryModified_derived {s : State} {n : Nat} (h : s.cfg.device = .derived n) (off : Nat) :
    entryModified off s =
      State.emit { s with tbl := s.tbl.overlay s.cfg.numCtl (Config.extModified n s.tbl off).1 }
        (baudEvents off s.tbl ++ deviceEvents (Config.extModified n s.tbl off).2) := by
  unfold entryModified
  rw [h]

theorem extReset_derived {cfg : Config} {n : Nat} (h : cfg.device = .derived n) (tbl : Memory) :
    extReset cfg tbl = tbl.overlay cfg.numCtl (Config.extReset n tbl) := by
  unfold extReset
  rw [h]

theorem isTransportEvent_iff (e : Event) : isTransportEvent e = true ↔ ∃ rate, e = .setBaud rate := by
  cases e <;> simp [isTransportEvent]

/-! ## The table of the TRST-body (R213) -/

/-- The base device's part of the TRST-body: every cell zero, then the three defaults. -/
def baseTable (cfg : Config) : Memory :=
  (((Memory.zeroed cfg.numCtl).write Config.offId cfg.defId).write Config.offBaud cfg.defBaud).write
    Config.offRdt cfg.defRdt

theorem resetTable_eq (cfg : Config) : resetTable cfg = extReset cfg (baseTable cfg) := rfl

theorem wf_baseTable (cfg : Config) : (baseTable cfg).wf :=
  Memory.wf_write _ _ (Memory.wf_write _ _ (Memory.wf_write _ _ (Memory.wf_zeroed _)))

/-- The base table is R213's, cell by cell; the defaults lie inside it because `6 ≤ P ≤ N` (R5). -/
theorem read_baseTable {cfg : Config} (h : cfg.legal) (a : Nat) : (baseTable cfg).read a = resetByte cfg a := by
  obtain ⟨-, hP, hPN, -⟩ := h
  simp only [baseTable, Memory.read_write, Memory.read_zeroed, Config.offId, Config.offBaud, Config.offRdt, resetByte]
  by_cases ha : cfg.numCtl ≤ a
  · rw [if_neg (by omega), if_neg (by omega), if_neg (by omega), if_neg (by omega), if_pos ha]
  · rw [if_neg ha, if_pos (Nat.lt_of_not_le ha)]
    have hcases : a = 3 ∨ a = 4 ∨ a = 5 ∨ (3 ≠ a ∧ 4 ≠ a ∧ 5 ≠ a) := by omega
    rcases hcases with rfl | rfl | rfl | ⟨h3, h4, h5⟩
    · rfl
    · rfl
    · rfl
    · rw [if_neg h5, if_neg h4, if_neg h3, if_neg h3.symm, if_neg h4.symm, if_neg h5.symm]
      rfl

theorem read_resetTable_base {cfg : Config} (hl : cfg.legal) (hd : cfg.device = .base) (a : Nat) :
    (resetTable cfg).read a = resetByte cfg a := by
  rw [resetTable_eq, extReset_base hd, read_baseTable hl]

theorem exec_trst {s : State} (h : s.Ready) :
    exec .trst s = .next { s with tbl := resetTable s.cfg, ports := {} } :=
  exec_done h rfl

/-! ## The tables of `LOAD` and the image of `SAVE` (R211, R212) -/

theorem read_loadedTable {cfg : Config} {d : List Byte} (hd : d.length = cfg.numPersistent) (a : Nat) :
    (loadedTable cfg d).read a =
      if a < cfg.numPersistent then d[a]? else if a < cfg.numCtl then some 0#8 else none := by
  rw [loadedTable, Memory.read_writeBytes, Memory.read_zeroed, hd]
  simp

theorem exec_load_okData {s : State} (h : s.Ready) {d : List Byte} (hd : d.length = s.cfg.numPersistent) :
    exec (.load (.okData d)) s =
      .next { s with tbl := loadedTable s.cfg d, ports := { ev := [.storeLoad 0#16 (storeCount s.cfg)] } } :=
  exec_done h (if_pos hd)

theorem exec_load_failed {s : State} (h : s.Ready) :
    exec (.load .failed) s =
      .next { s with tbl := resetTable s.cfg, ports := { ev := [.storeLoad 0#16 (storeCount s.cfg)] } } :=
  exec_done h rfl

/-- After a `LOAD` that answers a next state on a block that takes operations, no cell of the table is `⊥` (R211). -/
theorem isSome_of_exec_load {s t : State} {ans : StorageAnswer} (hr : s.Ready) (h : exec (.load ans) s = .next t) {a : Nat}
    (ha : a < s.cfg.numCtl) : (t.tbl.read a).isSome := by
  rcases loadTable_cases ans s.quiet with ⟨d, -, -, hb⟩ | ⟨-, hb⟩ | hb
  · cases (exec_done (i := .load ans) hr hb).symm.trans h
    exact isSome_loadedTable d ha
  · cases (exec_done (i := .load ans) hr hb).symm.trans h
    exact isSome_resetTable ha
  · cases (exec_stuck (i := .load ans) hr hb).symm.trans h

/-- The first `n` cells hold exactly the bytes of a sequence of length `n` that agrees with them. -/
theorem cells_eq_map_some {m : Memory} {n : Nat} {d : List Byte} (hd : d.length = n)
    (h : ∀ a, a < n → m.read a = d[a]?) : m.cells n = d.map some := by
  apply List.ext_getElem
  · simp [Memory.cells, hd]
  · intro a ha _
    have han : a < n := by simpa [Memory.cells] using ha
    simp [Memory.cells, h a han, hd, han]

theorem saveTable_okData_stuck {s : State} {d : List Byte} (e : List Byte) (hd : d.length = s.cfg.numPersistent)
    (h : ∀ a, a < s.cfg.numPersistent → s.tbl.read a = d[a]?) :
    saveTable (.okData e) s = .stuck .storageAnswerShape := by
  rw [saveTable, written_eq_some.mpr (cells_eq_map_some hd h)]

end Sys2Proof.Machine
end

section
/-! PROOFS. The statements of the family 00_scope.md, each from the lemmas above. -/

namespace Sys2Proof.Scope

open Sys2Proof.Machine Sys2Proof.Claims

/-- Settles O59: every step is a wait, a reset, an operation or a reserved word, and each keeps the invariant. -/
theorem stepKeepsInvariant : Obligations.StepKeepsInvariant := fun _ _ => step_inv

/-- Settles O12, by induction on the number of steps. -/
theorem faultIsSticky : Obligations.FaultIsSticky := by
  intro k
  induction k with
  | zero =>
    intro s s' _ _ hrun
    cases hrun
    rfl
  | succ k ih =>
    intro s s' hf hr hrun
    obtain ⟨t, hstep, hrun⟩ := run_succ_next hrun
    obtain rfl := step_of_fault hf hr hstep
    have hr' : HostInput.rst ∉ s.inputs.drop 1 := fun hm => hr (List.mem_of_mem_drop hm)
    rw [ih { s with inputs := s.inputs.drop 1, ports := {} } s' hf hr' hrun, List.drop_drop, Nat.add_comm 1 k]
    simp

/-- Settles O46: the TRST-body's table is R213's base table under the device's `EXT_RESET`. -/
theorem tableReset : Obligations.TableReset := by
  intro s hr hl
  refine ⟨rfl, _, exec_trst hr, rfl, fun hd a => read_resetTable_base hl hd a, fun n hd => ?_, fun a ha => ?_⟩
  · refine ⟨baseTable s.cfg, wf_baseTable _, read_baseTable hl, fun a => ?_⟩
    rw [resetTable_eq, extReset_derived hd, Memory.read_overlay]
  · exact Option.isSome_iff_ne_none.mp (isSome_resetTable ha)

/-- Settles O48: the table of each answer, and the same one event for both. -/
theorem loadTable : Obligations.LoadTable := by
  intro s hr _
  refine ⟨rfl, storeCount s.cfg, storeCount_toNat, fun d hd => ?_, ?_, fun ans t h a ha => ?_⟩
  · exact ⟨_, exec_load_okData hr hd, rfl, read_loadedTable hd⟩
  · exact ⟨_, _, exec_load_failed hr, exec_trst hr, rfl⟩
  · exact Option.isSome_iff_ne_none.mp (isSome_of_exec_load hr h ha)

/-- Settles O58, from the effect each operation has. -/
theorem writtenStaysWritten : Obligations.WrittenStaysWritten := by
  intro i s t h
  obtain ⟨hid, hlen, hcmd, hchk, hidx, hpar, htbl⟩ := exec_writtenKept h
  exact ⟨hid, hlen, hcmd, hchk, hidx, hpar, htbl⟩

/-- Settles O5. -/
theorem stepRunsDecodedOperation : Obligations.StepRunsDecodedOperation := by
  intro s r rest i hi hd
  rw [step_op hi, hd]

/-- Settles O6: the empty queue, and the one decode error that is not a reserved word. -/
theorem stepWithoutOperation : Obligations.StepWithoutOperation := by
  refine ⟨fun s hi => step_idle hi, fun s r rest hi hw hq => ?_⟩
  rw [step_op hi, decode_spar_tooLong hw hq]

/-- Settles O21: the body raises `Unwritten`, and the fault entry follows. -/
theorem receiverUnwrittenFault : Obligations.ReceiverUnwrittenFault := by
  intro s b hr h
  refine exec_raise hr ?_
  rcases h with ⟨hp, hc⟩ | ⟨hp, hn⟩
  · exact receiveByte_header_raise hp hc
  · exact receiveByte_body_raise hp hn

/-- Settles O38. -/
theorem populateHook : Obligations.PopulateHook := by
  intro s off
  refine ⟨fun hd => populateEntry_base hd off, fun n hd => ?_⟩
  rw [populateEntry_derived hd]
  exact ⟨rfl, Memory.read_overlay _ _ _⟩

/-- Settles O41. -/
theorem modifiedHook : Obligations.ModifiedHook := by
  rintro s off _ rfl
  refine ⟨fun hd => entryModified_base hd off, fun n hd => ?_, isTransportEvent_iff⟩
  rw [entryModified_derived hd]
  exact ⟨rfl, Memory.read_overlay _ _ _⟩

/-- Settles O51: each wrong shape leaves the body stuck; `SAVE` reaches its answer only with the persistent region written. -/
theorem malformedAnswerStuck : Obligations.MalformedAnswerStuck := by
  intro s hr
  refine ⟨exec_stuck hr rfl, fun d hd => exec_stuck hr (if_neg hd), fun d e hd hread => ?_⟩
  exact exec_stuck hr (saveTable_okData_stuck e hd hread)

/-- Settles O60. -/
theorem resetHasInvariant : Obligations.ResetHasInvariant :=
  ⟨inv_powerOn (by decide), fun _ => inv_powerOn⟩

end Sys2Proof.Scope
end

section
/-! PROOFS. The fault record, the word an operation came from, and the two units of the block (R20): an operation of one
unit commutes with replacing the fields of the other. -/

namespace Sys2Proof

/-! ## The request word of a decoded operation (R85) -/

theorem toNat_eq_fields (w : Byte) : w.toNat = 8 * (opField w).toNat + 2 * (wcField w).toNat + (sField w).toNat := by
  rw [opField_toNat, wcField_toNat, sField_toNat]
  omega

theorem opwOf_of_decodePlain {w : Byte} {i j : Instr} (h : decodePlain w i = .ok j)
    {op : Nat} (hop : (opField w).toNat = op) (hi : (opwOf i).toNat = 8 * op) : opwOf j = w := by
  obtain ⟨hlow, rfl⟩ := decodePlain_ok.mp h
  rw [opField_toNat] at hop
  exact BitVec.eq_of_toNat_eq (by omega)

theorem opwOf_of_decodeTget {w : Byte} {a : PortA} {j : Instr} (hop : (opField w).toNat = 0x10)
    (h : decodeTget (wcField w).toNat (sField w).toNat a = .ok j) : opwOf j = w := by
  rcases decodeTget_cases (wcField w).toNat (sField w).toNat a with
    ⟨hw, hs, hd⟩ | ⟨hw, hs, hd⟩ | ⟨hw, hs, hd⟩ | ⟨hw, hs, hd⟩ | ⟨hw, hs, hd⟩ | ⟨hw, hs, hd⟩ | ⟨-, hd⟩ <;>
    rw [hd] at h <;> cases h
  all_goals exact BitVec.eq_of_toNat_eq (by rw [toNat_eq_fields w, hop, hw, hs]; rfl)

theorem opwOf_of_decodeTset {w : Byte} {a : PortA} {b : Word} {j : Instr} (hop : (opField w).toNat = 0x11)
    (h : decodeTset (wcField w).toNat (sField w).toNat a b = .ok j) : opwOf j = w := by
  rcases decodeTset_cases (wcField w).toNat (sField w).toNat a b with
    ⟨hw, hs, hd⟩ | ⟨hw, hs, hd⟩ | ⟨hw, hs, hd⟩ | ⟨hw, hs, hd⟩ | ⟨hw, hs, hd⟩ | ⟨hw, hs, hd⟩ | ⟨-, hd⟩ <;>
    rw [hd] at h <;> cases h
  all_goals exact BitVec.eq_of_toNat_eq (by rw [toNat_eq_fields w, hop, hw, hs]; rfl)

/-- An operation's own word is the word of every request that decodes to it. -/
theorem opwOf_of_decode {r : Request} {i : Instr} (h : decode r = .ok i) : opwOf i = r.opw := by
  unfold decode at h
  split at h
  case h_7 hop =>
    obtain ⟨hlow, -, rfl⟩ := decodeSpar_ok.mp h
    rw [opField_toNat] at hop
    exact BitVec.eq_of_toNat_eq (show 0x38 = r.opw.toNat by omega)
  case h_14 hop => exact opwOf_of_decodeTget hop h
  case h_15 hop => exact opwOf_of_decodeTset hop h
  case h_19 => cases h
  all_goals next hop => exact opwOf_of_decodePlain h hop rfl

namespace Machine

open Sys2Proof.Claims (IsFramer mapNext)

/-! ## Who writes the fault record (R32) -/

/-- The fault record is the same in both states. -/
def RecordKept (s t : State) : Prop := t.fault = s.fault ∧ t.cause = s.cause ∧ t.fop = s.fop

/-- The record of `s` was clear, and `t` records a fault of the operation with word `w`. -/
def RecordTaken (w : Byte) (s t : State) : Prop := s.fault = false ∧ t.fault = true ∧ t.cause ≠ .none ∧ t.fop = w

theorem recordTaken_enterFault {s : State} (h : s.Ready) {c : Cause} (hc : c ≠ .none) (w : Byte) :
    RecordTaken w s (s.enterFault c w) := ⟨h.1, rfl, hc, rfl⟩

theorem exec_record {i : Instr} {s t : State} (h : exec i s = .next t) : RecordKept s t ∨ RecordTaken (opwOf i) s t := by
  rcases exec_next h with ⟨-, -, rfl⟩ | ⟨-, hb⟩ | ⟨hr, c, hb, rfl⟩
  · exact .inl ⟨rfl, rfl, rfl⟩
  · obtain ⟨hf, hc, hw, -, -⟩ := bodyOf_done hb
    exact .inl ⟨hf, hc, hw⟩
  · exact .inr (recordTaken_enterFault hr (bodyOf_raise hb).1 _)

theorem reservedWord_record {w : Byte} {s t : State} (h : reservedWord w s = .next t) :
    RecordKept s t ∨ RecordTaken w s t := by
  rcases operate_next h with ⟨-, -, rfl⟩ | ⟨-, hb⟩ | ⟨hr, c, hb, rfl⟩
  · exact .inl ⟨rfl, rfl, rfl⟩
  · cases hb
  · cases hb
    exact .inr (recordTaken_enterFault hr (by decide) w)

/-- All a step can do to the fault record, by the input it takes. -/
theorem step_record {s t : State} (h : step s = .next t) :
    RecordKept s t ∨ (∃ r rest, s.inputs = .op r :: rest ∧ RecordTaken r.opw s t) ∨
    ∃ rest, s.inputs = .rst :: rest ∧ t = powerOnReset { s with inputs := rest } := by
  rcases step_next h with ⟨-, rfl⟩ | ⟨rest, hi, rfl⟩ | ⟨r, rest, i, hi, hd, he⟩ | ⟨r, rest, hi, -, hw⟩
  · exact .inl ⟨rfl, rfl, rfl⟩
  · exact .inr (.inr ⟨rest, hi, rfl⟩)
  · rcases exec_record he with hk | ht
    · exact .inl hk
    · exact .inr (.inl ⟨r, rest, hi, opwOf_of_decode hd ▸ ht⟩)
  · rcases reservedWord_record hw with hk | ht
    · exact .inl hk
    · exact .inr (.inl ⟨r, rest, hi, ht⟩)

/-! ## Operations and bodies under a replacement of the other unit's fields (R20) -/

/-- Apply a change to the state a body leaves. -/
def OpResult.map (g : State → State) : OpResult → OpResult
  | .done s => .done (g s)
  | .raise c => .raise c
  | .stuck f => .stuck f

@[simp] theorem OpResult.map_done (g : State → State) (s : State) : (OpResult.done s).map g = .done (g s) := rfl
@[simp] theorem OpResult.map_raise (g : State → State) (c : Cause) : (OpResult.raise c).map g = .raise c := rfl
@[simp] theorem OpResult.map_stuck (g : State → State) (f : Fault) : (OpResult.stuck f).map g = .stuck f := rfl

/-- A change of the state that touches nothing `operate` reads or writes: the fault record, the parameters, the outputs. -/
structure LeavesShell (g : State → State) : Prop where
  fault : ∀ s, (g s).fault = s.fault
  cfg : ∀ s, (g s).cfg = s.cfg
  drive : ∀ s p, (g s).drive p = g (s.drive p)
  enterFault : ∀ s c w, (g s).enterFault c w = g (s.enterFault c w)

/-- An operation commutes with such a change where its body does. -/
theorem exec_map {g : State → State} (hg : LeavesShell g) {i : Instr}
    (hb : ∀ s, bodyOf i (g s) = (bodyOf i s).map g) (s : State) : exec i (g s) = mapNext g (exec i s) := by
  rw [exec_eq_operate, exec_eq_operate]
  by_cases hd : s.cfg.device = .reentrant
  · rw [operate_reentrant hd, operate_reentrant (by rw [hg.cfg, hd])]
    rfl
  by_cases hf : s.fault = true
  · rw [operate_faulted hf hd, operate_faulted (by rw [hg.fault, hf]) (by rwa [hg.cfg])]
    exact congrArg _ (hg.drive s _)
  have hr : s.Ready := ⟨by simpa using hf, hd⟩
  have hr' : (g s).Ready := ⟨by rw [hg.fault, hr.1], by rw [hg.cfg]; exact hd⟩
  have hq : bodyOf i (g s).quiet = (bodyOf i s.quiet).map g := (congrArg _ (hg.drive s _)).trans (hb _)
  rw [operate_ready hr, operate_ready hr', hq]
  cases bodyOf i s.quiet with
  | done t => rfl
  | raise c => exact congrArg _ (hg.enterFault s c _)
  | stuck f => rfl

theorem readOut_map {g : State → State} (hg : LeavesShell g) (r : Option Byte) (f : Byte → Word) (s : State) :
    readOut r f (g s) = (readOut r f s).map g := by
  cases r with
  | none => rfl
  | some b => exact congrArg OpResult.done (hg.drive s _)

/-! ## Framer operations beside another table -/

section Table

/-- The table unit's fields replaced. -/
def State.withTable (m : Memory) (d : Nat) (s : State) : State := { s with tbl := m, draws := d }

variable (m : Memory) (d : Nat)

@[simp] theorem State.withTable_pst (s : State) : (s.withTable m d).pst = s.pst := rfl
@[simp] theorem State.withTable_len (s : State) : (s.withTable m d).len = s.len := rfl
@[simp] theorem State.withTable_chk (s : State) : (s.withTable m d).chk = s.chk := rfl
@[simp] theorem State.withTable_idx (s : State) : (s.withTable m d).idx = s.idx := rfl
@[simp] theorem State.withTable_cfg (s : State) : (s.withTable m d).cfg = s.cfg := rfl
@[simp] theorem packetChecksum_withTable (s : State) : packetChecksum (s.withTable m d) = packetChecksum s := rfl
@[simp] theorem packetCells_withTable (s : State) : packetCells (s.withTable m d) = packetCells s := rfl

theorem leavesShell_withTable : LeavesShell (State.withTable m d) where
  fault _ := rfl
  cfg _ := rfl
  drive _ _ := rfl
  enterFault _ _ _ := rfl

theorem accumulate_withTable (b : Byte) (s : State) {k k' : Byte → OpResult}
    (hk : ∀ c, k' c = (k c).map (State.withTable m d)) :
    accumulate b (s.withTable m d) k' = (accumulate b s k).map (State.withTable m d) := by
  rcases accumulate_cases b s k with ⟨c, hc, h⟩ | ⟨hc, h⟩
  · rw [h, ← hk, accumulate, State.withTable_chk, hc]
  · rw [h, accumulate_raise (s := s.withTable m d) hc]
    rfl

theorem receiveChecksum_withTable (b i : Byte) (s : State) :
    receiveChecksum b i (s.withTable m d) = (receiveChecksum b i s).map (State.withTable m d) := by
  unfold receiveChecksum
  rw [State.withTable_chk]
  cases s.chk <;> rfl

theorem receiveByte_withTable (b : Byte) (s : State) :
    receiveByte b (s.withTable m d) = (receiveByte b s).map (State.withTable m d) := by
  unfold receiveByte
  rw [State.withTable_pst]
  cases s.pst with
  | idle | sync1Seen | sync2Seen =>
    dsimp only
    split <;> rfl
  | idReceived | lengthReceived => exact accumulate_withTable m d b s fun _ => rfl
  | receivingBody =>
    rw [State.withTable_len, State.withTable_idx]
    dsimp only
    split
    · split
      · exact accumulate_withTable m d b s fun _ => rfl
      · exact receiveChecksum_withTable m d b _ s
    · rfl
  | unused6 | unused7 => rfl

theorem updateChecksum_withTable (s : State) :
    updateChecksum (s.withTable m d) = (updateChecksum s).map (State.withTable m d) := by
  unfold updateChecksum
  rw [packetChecksum_withTable]
  cases packetChecksum s <;> rfl

theorem serialize_withTable (n : PortA) (s : State) :
    serialize n (s.withTable m d) = (serialize n s).map (State.withTable m d) := by
  unfold serialize
  rw [packetCells_withTable]
  cases written ((packetCells s).take n.toNat) <;> rfl

theorem readParam_withTable (k : PortA) (s : State) :
    readParam k (s.withTable m d) = (readParam k s).map (State.withTable m d) := by
  unfold readParam
  rw [State.withTable_cfg]
  split
  · rfl
  · exact readOut_map (leavesShell_withTable m d) _ _ s

/-- No framer operation reads or writes the table unit's fields. -/
theorem bodyOf_withTable {i : Instr} (hi : IsFramer i = true) (s : State) :
    bodyOf i (s.withTable m d) = (bodyOf i s).map (State.withTable m d) := by
  cases i with
  | pb b => exact receiveByte_withTable m d b s
  | prst | sid _ | scmd _ | spar _ => rfl
  | uck => exact updateChecksum_withTable m d s
  | ser n => exact serialize_withTable m d n s
  | rid | rcmd | rlen | rnp | rchk => exact readOut_map (leavesShell_withTable m d) _ _ s
  | rpar k => exact readParam_withTable m d k s
  | tgetU8 _ | tgetS8 _ | tgetU16 _ | tgetS16 _ | tgetU32 _ | tgetS32 _ => cases hi
  | tsetU8 _ _ | tsetS8 _ _ | tsetU16 _ _ | tsetS16 _ _ | tsetU32 _ _ | tsetS32 _ _ => cases hi
  | load _ | save _ | trst => cases hi

end Table

/-! ## Table operations beside another framer -/

section Framer

/-- The framer's fields replaced by those of `r`. -/
def State.withFramer (r s : State) : State :=
  { s with pst := r.pst, id := r.id, len := r.len, cmd := r.cmd, chk := r.chk, idx := r.idx, par := r.par }

variable (r : State)

@[simp] theorem State.withFramer_tbl (s : State) : (r.withFramer s).tbl = s.tbl := rfl
@[simp] theorem State.withFramer_cfg (s : State) : (r.withFramer s).cfg = s.cfg := rfl

theorem leavesShell_withFramer : LeavesShell (State.withFramer r) where
  fault _ := rfl
  cfg _ := rfl
  drive _ _ := rfl
  enterFault _ _ _ := rfl

theorem populateEntry_withFramer (off : Nat) (s : State) :
    populateEntry off (r.withFramer s) = r.withFramer (populateEntry off s) := by
  unfold populateEntry
  rw [State.withFramer_cfg]
  cases s.cfg.device <;> rfl

theorem entryModified_withFramer (off : Nat) (s : State) :
    entryModified off (r.withFramer s) = r.withFramer (entryModified off s) := by
  unfold entryModified
  rw [State.withFramer_cfg]
  cases s.cfg.device <;> rfl

theorem tableGet_withFramer (n : Nat) (signed : Bool) (off : PortA) (s : State) :
    tableGet n signed off (r.withFramer s) = (tableGet n signed off s).map (State.withFramer r) := by
  unfold tableGet
  rw [populateEntry_withFramer, State.withFramer_cfg]
  split
  · rfl
  · dsimp only
    rw [State.withFramer_tbl]
    cases (populateEntry off.toNat s).tbl.readLE off.toNat n <;> rfl

theorem tableSet_withFramer (n : Nat) (off : PortA) (v : Word) (s : State) :
    tableSet n off v (r.withFramer s) = (tableSet n off v s).map (State.withFramer r) := by
  unfold tableSet
  rw [State.withFramer_cfg]
  split
  · rfl
  · exact congrArg OpResult.done (entryModified_withFramer r off.toNat { s with tbl := s.tbl.writeLE off.toNat n v })

theorem loadTable_withFramer (ans : StorageAnswer) (s : State) :
    loadTable ans (r.withFramer s) = (loadTable ans s).map (State.withFramer r) := by
  cases ans with
  | okData q =>
    unfold loadTable
    rw [State.withFramer_cfg]
    dsimp only
    split <;> rfl
  | ok | failed => rfl

theorem saveTable_withFramer (ans : StorageAnswer) (s : State) :
    saveTable ans (r.withFramer s) = (saveTable ans s).map (State.withFramer r) := by
  unfold saveTable
  rw [State.withFramer_cfg, State.withFramer_tbl]
  cases written (s.tbl.cells s.cfg.numPersistent) with
  | none => rfl
  | some image => cases ans <;> rfl

/-- No table operation reads or writes the framer's fields. -/
theorem bodyOf_withFramer {i : Instr} (hi : IsFramer i = false) (s : State) :
    bodyOf i (r.withFramer s) = (bodyOf i s).map (State.withFramer r) := by
  cases i with
  | tgetU8 off | tgetS8 off | tgetU16 off | tgetS16 off | tgetU32 off | tgetS32 off =>
    exact tableGet_withFramer r _ _ off s
  | tsetU8 off v | tsetS8 off v | tsetU16 off v | tsetS16 off v | tsetU32 off v | tsetS32 off v =>
    exact tableSet_withFramer r _ off v s
  | load ans => exact loadTable_withFramer r ans s
  | save ans => exact saveTable_withFramer r ans s
  | trst => rfl
  | pb _ | prst | uck | ser _ | sid _ | scmd _ | spar _ => cases hi
  | rid | rcmd | rlen | rnp | rpar _ | rchk => cases hi

end Framer

/-! ## Who writes each framer register (R21 to R27) -/

/-- Each framer register that differs after operation `i` is one that `i` may write. -/
structure WritersOnly (i : Instr) (s t : State) : Prop where
  pst : t.pst ≠ s.pst → (∃ b, i = .pb b) ∨ i = .prst
  id : t.id ≠ s.id → (∃ b, i = .pb b) ∨ ∃ b, i = .sid b
  len : t.len ≠ s.len → (∃ b, i = .pb b) ∨ ∃ q, i = .spar q
  cmd : t.cmd ≠ s.cmd → (∃ b, i = .pb b) ∨ ∃ b, i = .scmd b
  chk : t.chk ≠ s.chk → (∃ b, i = .pb b) ∨ i = .uck
  idx : t.idx ≠ s.idx → ∃ b, i = .pb b
  par : t.par ≠ s.par → (∃ b, i = .pb b) ∨ ∃ q, i = .spar q

theorem WritersOnly.refl (i : Instr) (s : State) : WritersOnly i s s where
  pst h := absurd rfl h
  id h := absurd rfl h
  len h := absurd rfl h
  cmd h := absurd rfl h
  chk h := absurd rfl h
  idx h := absurd rfl h
  par h := absurd rfl h

/-- `PB` may write every framer register. -/
theorem WritersOnly.pb (b : Byte) (s t : State) : WritersOnly (.pb b) s t where
  pst _ := .inl ⟨b, rfl⟩
  id _ := .inl ⟨b, rfl⟩
  len _ := .inl ⟨b, rfl⟩
  cmd _ := .inl ⟨b, rfl⟩
  chk _ := .inl ⟨b, rfl⟩
  idx _ := ⟨b, rfl⟩
  par _ := .inl ⟨b, rfl⟩

theorem Effect.writersOnly {i : Instr} {s t : State} (h : Effect s i t) : WritersOnly i s t := by
  cases h with
  | received => exact .pb _ s t
  | abandoned => exact { WritersOnly.refl _ s with pst := fun _ => .inr rfl }
  | idSet b => exact { WritersOnly.refl _ s with id := fun _ => .inr ⟨b, rfl⟩ }
  | commandSet b => exact { WritersOnly.refl _ s with cmd := fun _ => .inr ⟨b, rfl⟩ }
  | checksumSet => exact { WritersOnly.refl _ s with chk := fun _ => .inr rfl }
  | paramsSet q =>
    exact { WritersOnly.refl _ s with len := fun _ => .inr ⟨q, rfl⟩, par := fun _ => .inr ⟨q, rfl⟩ }
  | outputs | tableSet => exact { WritersOnly.refl i s with }

theorem exec_writersOnly {i : Instr} {s t : State} (h : exec i s = .next t) : WritersOnly i s t := by
  rcases exec_next h with ⟨-, -, rfl⟩ | ⟨-, hb⟩ | ⟨-, c, -, rfl⟩
  · exact { WritersOnly.refl i s with }
  · exact { (bodyOf_effect hb).writersOnly with }
  · exact { WritersOnly.refl i s with }

/-- No operation writes the parameters or the pending inputs (R33). -/
theorem exec_cfg_inputs {i : Instr} {s t : State} (h : exec i s = .next t) : t.cfg = s.cfg ∧ t.inputs = s.inputs := by
  rcases exec_next h with ⟨-, -, rfl⟩ | ⟨-, hb⟩ | ⟨-, c, -, rfl⟩
  · exact ⟨rfl, rfl⟩
  · obtain ⟨-, -, -, hc, hi⟩ := bodyOf_done hb
    exact ⟨hc, hi⟩
  · exact ⟨rfl, rfl⟩

/-! ## `SAVE` and `SER` by the cells they read (R146, R212) -/

/-- The persistent region's cells hold exactly the bytes `q`. -/
def Persists (s : State) (q : List Byte) : Prop := s.tbl.cells s.cfg.numPersistent = q.map some

theorem saveTable_ok {s : State} {q : List Byte} (hq : Persists s q) :
    saveTable .ok s = .done (s.drive { res := saveOk, ev := [.storeSave 0#16 (storeCount s.cfg) q] }) := by
  rw [saveTable, written_eq_some.mpr hq]

theorem saveTable_failed {s : State} {q : List Byte} (hq : Persists s q) :
    saveTable .failed s = .done (s.drive { res := saveFailed, ev := [.storeSave 0#16 (storeCount s.cfg) q] }) := by
  rw [saveTable, written_eq_some.mpr hq]

theorem saveTable_unwritten {s : State} (ans : StorageAnswer) {a : Nat} (ha : a < s.cfg.numPersistent)
    (hn : s.tbl.read a = none) : saveTable ans s = .raise .unwritten := by
  have hmem : none ∈ s.tbl.cells s.cfg.numPersistent := List.mem_map.mpr ⟨a, List.mem_range.mpr ha, hn⟩
  rw [saveTable, written_eq_none.mpr hmem]

/-- `SER` emits the first `n` bytes of the packet where their cells all hold bytes. -/
theorem serialize_written {s : State} {n : PortA} {bytes : List Byte}
    (hb : (packetCells s).take n.toNat = bytes.map some) :
    serialize n s = .done (s.drive { res := countWord bytes.length, out := bytes }) := by
  rw [serialize, written_eq_some.mpr hb]

theorem serialize_unwritten {s : State} {n : PortA} (hn : none ∈ (packetCells s).take n.toNat) :
    serialize n s = .raise .unwritten := by
  rw [serialize, written_eq_none.mpr hn]

theorem exec_ser_written {s : State} (h : s.Ready) {n : PortA} {bytes : List Byte}
    (hb : (packetCells s).take n.toNat = bytes.map some) :
    exec (.ser n) s = .next { s with ports := { res := countWord bytes.length, out := bytes } } :=
  exec_done h (serialize_written (s := s.quiet) hb)

theorem exec_ser_unwritten {s : State} (h : s.Ready) {n : PortA} (hn : none ∈ (packetCells s).take n.toNat) :
    exec (.ser n) s = .next (s.enterFault .unwritten 0x20#8) :=
  exec_raise (i := .ser n) h (serialize_unwritten (s := s.quiet) hn)

theorem packetCells_of_len_none {s : State} (h : s.len = none) : packetCells s = [some 0xFF#8, some 0xFF#8, s.id, none] := by
  rw [packetCells, h]

end Machine

end Sys2Proof
end

section
/-! PROOFS. The statements of the family 10_state.md, each from the lemmas above. -/

namespace Sys2Proof.StateFields

open Sys2Proof.Machine Sys2Proof.Claims

/-- Settles O10: of the three things a step can do to the fault record, each is one alternative of the statement. -/
theorem faultRecordWriters : Obligations.FaultRecordWriters := by
  intro s t h
  rcases step_record h with hk | ⟨r, rest, hi, hb, hf, hc, hw⟩ | ⟨rest, hi, rfl⟩
  · exact .inl hk
  · exact .inr (.inl ⟨hb, hf, hc, r, rest, hi, hw⟩)
  · exact .inr (.inr ⟨⟨rest, hi⟩, rfl, rfl, rfl⟩)

/-- Settles O50: one `⊥` in the persistent region raises `Unwritten`; without one the region is sent as it stands. -/
theorem saveTable : Obligations.SaveTable := by
  intro s hr
  refine ⟨rfl, storeCount s.cfg, storeCount_toNat, fun ans ⟨a, ha, hn⟩ => ?_, fun d hd hread => ?_⟩
  · exact exec_raise hr (saveTable_unwritten (s := s.quiet) ans ha hn)
  · have hq : Persists s.quiet d := cells_eq_map_some hd hread
    exact ⟨exec_done hr (saveTable_ok hq), exec_done hr (saveTable_failed hq)⟩

/-- Settles O53: every framer body commutes with replacing the table, so the operation does. -/
theorem framerIgnoresTable : Obligations.FramerIgnoresTable := fun _ s m d hi =>
  exec_map (leavesShell_withTable m d) (bodyOf_withTable m d hi) s

/-- Settles O54: every table body commutes with replacing the framer, so the operation does. -/
theorem tableIgnoresFramer : Obligations.TableIgnoresFramer := fun _ s r hi =>
  exec_map (leavesShell_withFramer r) (bodyOf_withFramer r hi) s

/-- Settles O55, from the effect each operation has. -/
theorem registerWriters : Obligations.RegisterWriters := by
  intro i s t h
  obtain ⟨hpst, hid, hlen, hcmd, hchk, hidx, hpar⟩ := exec_writersOnly h
  exact ⟨hpst, hid, hlen, hcmd, hchk, hidx, hpar, exec_cfg_inputs h⟩

/-- Settles O7: the step is `powerOnReset` on the state with `RST` taken. -/
theorem powerOnReset : Obligations.PowerOnReset := by
  intro s rest hi
  refine ⟨_, step_rst hi, ?_⟩
  simp

/-- Settles O8, field by field of `State.powerOn`. -/
theorem resetValues : Obligations.ResetValues := by
  simp [Obligations.ResetValues, State.reset]

/-- Settles O33: the cells `SER` reads are the first `m` of the four bytes up to the length byte, which is `⊥`. -/
theorem serializeWithoutLength : Obligations.SerializeWithoutLength := by
  intro s m hr hl
  have hcells := packetCells_of_len_none hl
  refine ⟨fun hm => ?_, fun hm => ?_, fun hm hid => ?_, fun x hm hid => ?_⟩
  · refine exec_ser_unwritten hr ?_
    rw [hcells, List.take_of_length_le hm]
    simp
  · have htake : (packetCells s).take m.toNat = (List.replicate m.toNat 0xFF#8).map some := by
      rw [hcells]
      have : m.toNat = 0 ∨ m.toNat = 1 ∨ m.toNat = 2 := by omega
      rcases this with h | h | h <;> rw [h] <;> rfl
    rw [exec_ser_written hr htake, List.length_replicate]
    rfl
  · refine exec_ser_unwritten hr ?_
    rw [hcells, hm, hid]
    simp
  · exact exec_ser_written (bytes := [0xFF#8, 0xFF#8, x]) hr (by rw [hcells, hm, hid]; rfl)

end Sys2Proof.StateFields
end

section
/-! PROOFS. The control-table accessors by size and signedness: the body of each form, the value a read assembles from the
bytes a write stored, and the outcome of each access. -/

namespace Sys2Proof

/-! ## The value of a read inside a write (R61 to R63) -/

theorem toNat_extractLsb'_byte (v : Word) (j : Nat) : (v.extractLsb' (8 * j) 8).toNat = v.toNat / 256 ^ j % 256 := by
  rw [BitVec.extractLsb'_toNat, Nat.shiftRight_eq_div_pow, Nat.pow_mul]

/-- A read of `k` bytes inside a write assembles the bytes `j .. j+k-1` of the value written. -/
theorem Memory.readLE_writeLE (m : Memory) (off n : Nat) (v : Word) {j k : Nat} (h : j + k ≤ n) :
    (m.writeLE off n v).readLE (off + j) k = some (v.toNat / 256 ^ j % 256 ^ k) := by
  induction k generalizing j with
  | zero => simp [Memory.readLE, Nat.mod_one]
  | succ k ih =>
    have hbyte : (m.writeLE off n v).read (off + j) = some (v.extractLsb' (8 * j) 8) := by
      rw [Memory.read_writeLE, if_pos (by omega), Nat.add_sub_cancel_left]
    have hrest : (m.writeLE off n v).readLE (off + j + 1) k = some (v.toNat / 256 ^ (j + 1) % 256 ^ k) :=
      ih (j := j + 1) (by omega)
    simp only [Memory.readLE, hbyte, hrest, toNat_extractLsb'_byte]
    rw [Nat.pow_succ' (n := k), Nat.mod_mul, Nat.div_div_eq_div_mul, ← Nat.pow_succ]

namespace Machine

open Sys2Proof.Claims

/-- The model's extension of a value of `n` bytes is rule R9's, which goes by its integer value. -/
theorem extend_eq_extended {n v : Nat} (signed : Bool) (hn : 0 < n) (hv : v < 256 ^ n) :
    extend n signed v = extended n signed v := by
  have hpow : 256 ^ n = 2 ^ (8 * n) := (Nat.pow_mul 2 8 n).symm
  have hhalf : 2 ^ (8 * n) = 2 * 2 ^ (8 * n - 1) := by rw [← Nat.pow_succ']; congr 1; omega
  have hnat : (BitVec.ofNat (8 * n) v).toNat = v := by rw [BitVec.toNat_ofNat, Nat.mod_eq_of_lt (hpow ▸ hv)]
  cases signed with
  | false => exact BitVec.eq_of_toNat_eq (by simp [extend, extended, Nat.mod_eq_of_lt (hpow ▸ hv)])
  | true =>
    have hsext : extend n true v = BitVec.ofInt 32 (BitVec.ofNat (8 * n) v).toInt := rfl
    rw [hsext, BitVec.toInt_eq_toNat_cond, hnat, extended, Bool.true_and]
    by_cases hs : 2 ^ (8 * n - 1) ≤ v
    · rw [if_neg (by omega), if_pos (decide_eq_true hs)]
      norm_cast
    · rw [if_pos (by omega), if_neg (by simpa using hs), BitVec.ofInt_natCast]

/-! ## No operation reads the outputs (R35) -/

theorem exec_drive (i : Instr) (s : State) (p : Ports) : exec i (s.drive p) = exec i s := by
  rw [exec_eq_operate, exec_eq_operate]
  rfl

/-! ## The forms of `TGET` and `TSET` (R86, R91) -/

theorem bodyOf_get {n : Nat} {signed : Bool} {mk : PortA → Instr} (h : (n, signed, mk) ∈ gets) (off : PortA) :
    bodyOf (mk off) = tableGet n signed off := by
  simp only [gets, List.mem_cons, Prod.mk.injEq, List.not_mem_nil, or_false] at h
  rcases h with h | h | h | h | h | h <;> obtain ⟨rfl, rfl, rfl⟩ := h <;> rfl

theorem bodyOf_set {n : Nat} {mk : PortA → Word → Instr} (h : (n, mk) ∈ sets) (off : PortA) (v : Word) :
    bodyOf (mk off v) = tableSet n off v := by
  simp only [sets, List.mem_cons, Prod.mk.injEq, List.not_mem_nil, or_false] at h
  rcases h with h | h | h | h | h | h <;> obtain ⟨rfl, rfl⟩ := h <;> rfl

/-- Every `TGET` reads at least one byte. -/
theorem pos_of_mem_gets {n : Nat} {signed : Bool} {mk : PortA → Instr} (h : (n, signed, mk) ∈ gets) : 0 < n := by
  simp only [gets, List.mem_cons, Prod.mk.injEq, List.not_mem_nil, or_false] at h
  omega

/-! ## `TGET` on the base device (R70, R170) -/

/-- A base `TGET` that is done drives the outputs alone. -/
theorem tableGet_base_done {n : Nat} {signed : Bool} {off : PortA} {s t : State} (hd : s.cfg.device = .base)
    (h : tableGet n signed off s = .done t) : ∃ p, t = s.drive p := by
  rcases tableGet_cases n signed off s with ⟨-, hg⟩ | ⟨-, -, hg⟩ | ⟨-, v, -, hg⟩ <;> rw [hg] at h <;> cases h
  exact ⟨_, by rw [populateEntry_base hd]⟩

theorem tableGet_base_read {n : Nat} {signed : Bool} {off : PortA} {s : State} (hd : s.cfg.device = .base)
    (hb : off.toNat + n ≤ s.cfg.numCtl) {v : Nat} (hv : s.tbl.readLE off.toNat n = some v) :
    tableGet n signed off s = .done (s.drive { res := extend n signed v }) := by
  rw [tableGet, if_neg (Nat.not_lt.mpr hb), populateEntry_base hd]
  simp only [hv]

theorem exec_get_base {n : Nat} {signed : Bool} {mk : PortA → Instr} (hmk : (n, signed, mk) ∈ gets) {s : State}
    {off : PortA} (hd : s.cfg.device = .base) (hr : s.Ready) (hb : off.toNat + n ≤ s.cfg.numCtl) {v : Nat}
    (hv : s.tbl.readLE off.toNat n = some v) :
    exec (mk off) s = .next (s.drive { res := extend n signed v }) :=
  exec_done hr (by rw [bodyOf_get hmk]; exact tableGet_base_read (s := s.quiet) hd hb hv)

/-! ## `TSET` (R180, R188) -/

theorem exec_set_bounds {n : Nat} {mk : PortA → Word → Instr} (hmk : (n, mk) ∈ sets) {s : State} {off : PortA}
    (v : Word) (hr : s.Ready) (hb : s.cfg.numCtl < off.toNat + n) :
    exec (mk off v) s = .next (s.enterFault .tableBounds (opwOf (mk off v))) :=
  exec_raise hr (by rw [bodyOf_set hmk]; exact if_pos hb)

/-- In bounds, a `TSET` stores its bytes and runs the modified hook. -/
theorem exec_set {n : Nat} {mk : PortA → Word → Instr} (hmk : (n, mk) ∈ sets) {s : State} {off : PortA} (v : Word)
    (hr : s.Ready) (hb : off.toNat + n ≤ s.cfg.numCtl) :
    exec (mk off v) s =
      .next (entryModified off.toNat { s with tbl := s.tbl.writeLE off.toNat n v, ports := {} }) :=
  exec_done hr (by rw [bodyOf_set hmk]; exact if_neg (Nat.not_lt.mpr hb))

/-- On the base device the hook emits its event and writes nothing. -/
theorem exec_set_base {n : Nat} {mk : PortA → Word → Instr} (hmk : (n, mk) ∈ sets) {s : State} {off : PortA} (v : Word)
    (hd : s.cfg.device = .base) (hr : s.Ready) (hb : off.toNat + n ≤ s.cfg.numCtl) :
    exec (mk off v) s =
      .next { s with
        tbl := s.tbl.writeLE off.toNat n v
        ports := { ev := baudEvents off.toNat (s.tbl.writeLE off.toNat n v) } } := by
  rw [exec_set hmk v hr hb, entryModified_base]
  · rfl
  · exact hd

end Machine

end Sys2Proof
end

section
/-! PROOFS. What each operation does to the two memories and to the outputs (R36, R60, R88). -/

namespace Sys2Proof.Machine

open Sys2Proof.Claims

/-! ## Operations that store nothing (R20, R60) -/

theorem saveTable_done {ans : StorageAnswer} {s t : State} (h : saveTable ans s = .done t) : ∃ p, t = s.drive p := by
  unfold saveTable at h
  split at h
  · cases h
  · cases ans <;> cases h
    all_goals exact ⟨_, rfl⟩

/-- Among the framer operations `PB` and `SPAR` alone store a byte (R27). -/
theorem Effect.memories_of_framer {i : Instr} {s t : State} (h : Effect s i t) (hi : IsFramer i = true)
    (hpb : ∀ b, i ≠ .pb b) (hspar : ∀ q, i ≠ .spar q) : t.par = s.par ∧ t.tbl = s.tbl := by
  cases h with
  | received => exact absurd rfl (hpb _)
  | paramsSet => exact absurd rfl (hspar _)
  | abandoned | idSet | commandSet | checksumSet | outputs => exact ⟨rfl, rfl⟩
  | tableSet hf => exact absurd hi (by simp [hf])

/-- An operation leaves both memories where its body does: a faulted block and a fault entry touch neither (R236, R237). -/
theorem exec_memories {i : Instr} {s t : State} (h : exec i s = .next t)
    (hb : ∀ u, bodyOf i s.quiet = .done u → u.par = s.par ∧ u.tbl = s.tbl) : t.par = s.par ∧ t.tbl = s.tbl := by
  rcases exec_next h with ⟨-, -, rfl⟩ | ⟨-, hd⟩ | ⟨-, c, -, rfl⟩
  · exact ⟨rfl, rfl⟩
  · exact hb t hd
  · exact ⟨rfl, rfl⟩

/-- An operation whose body drives the outputs alone stores nothing. -/
theorem exec_memories_of_drives {i : Instr} {s t : State} (h : exec i s = .next t)
    (hb : ∀ u, bodyOf i s.quiet = .done u → ∃ p, u = s.quiet.drive p) : t.par = s.par ∧ t.tbl = s.tbl :=
  exec_memories h fun u hu => by
    obtain ⟨p, rfl⟩ := hb u hu
    exact ⟨rfl, rfl⟩

theorem exec_memories_of_framer {i : Instr} {s t : State} (h : exec i s = .next t) (hi : IsFramer i = true)
    (hpb : ∀ b, i ≠ .pb b) (hspar : ∀ q, i ≠ .spar q) : t.par = s.par ∧ t.tbl = s.tbl :=
  exec_memories h fun _ hu => (bodyOf_effect hu).memories_of_framer hi hpb hspar

/-! ## The outputs of an operation (R87, R88) -/

/-- What the outputs of operation `i` may hold: an output it does not write is at its default, and a storage request is
`LOAD`'s or `SAVE`'s own, at offset 0. -/
structure OutputsOf (i : Instr) (p : Ports) : Prop where
  st : (writesPorts i).1 = false → p.st = 0#2
  res : (writesPorts i).2.1 = false → p.res = 0#32
  out : (writesPorts i).2.2.1 = false → p.out = []
  ev : (writesPorts i).2.2.2 = false → p.ev = []
  storeLoad : ∀ off n, .storeLoad off n ∈ p.ev → off = 0#16 ∧ ∃ ans, i = .load ans
  storeSave : ∀ off n d, .storeSave off n d ∈ p.ev → off = 0#16 ∧ ∃ ans, i = .save ans

theorem outputsOf_idle (i : Instr) : OutputsOf i Ports.idle where
  st _ := rfl
  res _ := rfl
  out _ := rfl
  ev _ := rfl
  storeLoad _ _ h := nomatch h
  storeSave _ _ _ h := nomatch h

theorem outputsOf_res {i : Instr} (hi : (writesPorts i).2.1 = true) (v : Word) : OutputsOf i { res := v } :=
  { outputsOf_idle i with res := fun h => absurd hi (by simp [h]) }

theorem outputsOf_pb (b : Byte) (v : BitVec 2) : OutputsOf (.pb b) { st := v } :=
  { outputsOf_idle (.pb b) with st := nofun }

theorem Received.outputs {b : Byte} {s t : State} (h : Received b s t) (hs : s.ports = Ports.idle) :
    OutputsOf (.pb b) t.ports := by
  cases h with
  | sync | id | length | command | param | unused => exact hs ▸ outputsOf_idle _
  | checksum => exact outputsOf_pb b _

theorem updateChecksum_outputs {s t : State} (hs : s.ports = Ports.idle) (h : updateChecksum s = .done t) :
    OutputsOf .uck t.ports := by
  unfold updateChecksum at h
  split at h <;> cases h
  exact hs ▸ outputsOf_idle _

theorem serialize_outputs {m : PortA} {s t : State} (h : serialize m s = .done t) : OutputsOf (.ser m) t.ports := by
  unfold serialize at h
  split at h <;> cases h
  exact { outputsOf_idle (.ser m) with res := nofun, out := nofun }

theorem readOut_outputs {i : Instr} (hi : (writesPorts i).2.1 = true) {r : Option Byte} {f : Byte → Word} {s t : State}
    (h : readOut r f s = .done t) : OutputsOf i t.ports := by
  rcases readOut_cases r f s with ⟨b, -, hb⟩ | ⟨-, hb⟩ <;> rw [hb] at h <;> cases h
  exact outputsOf_res hi _

theorem readParam_outputs {k : PortA} {s t : State} (h : readParam k s = .done t) : OutputsOf (.rpar k) t.ports := by
  unfold readParam at h
  split at h
  · cases h
  · exact readOut_outputs rfl h

theorem tableGet_outputs {i : Instr} (hi : (writesPorts i).2.1 = true) {n : Nat} {signed : Bool} {off : PortA}
    {s t : State} (h : tableGet n signed off s = .done t) : OutputsOf i t.ports := by
  rcases tableGet_cases n signed off s with ⟨-, hg⟩ | ⟨-, -, hg⟩ | ⟨-, v, -, hg⟩ <;> rw [hg] at h <;> cases h
  exact outputsOf_res hi _

/-- The modified hook drives nothing but transport events, whatever the device (R188, log 20). -/
theorem entryModified_outputs {i : Instr} (hi : (writesPorts i).2.2.2 = true) (off : Nat) {s : State}
    (hs : s.ports = Ports.idle) : OutputsOf i (entryModified off s).ports := by
  have htransport : ∀ e ∈ (entryModified off s).ports.ev, ∃ rate, e = .setBaud rate := fun e he =>
    (entryModified_events he).resolve_left (by simp [hs])
  rw [entryModified_ports, hs]
  exact { outputsOf_idle i with
    ev := fun h => absurd hi (by simp [h])
    storeLoad := fun _ _ he => nomatch htransport _ he
    storeSave := fun _ _ _ he => nomatch htransport _ he }

theorem tableSet_outputs {i : Instr} (hi : (writesPorts i).2.2.2 = true) {n : Nat} {off : PortA} {v : Word} {s t : State}
    (hs : s.ports = Ports.idle) (h : tableSet n off v s = .done t) : OutputsOf i t.ports := by
  rcases tableSet_cases n off v s with ⟨-, hg⟩ | ⟨-, hg⟩ <;> rw [hg] at h <;> cases h
  exact entryModified_outputs hi _ hs

theorem outputsOf_load (ans : StorageAnswer) (n : BitVec 16) : OutputsOf (.load ans) { ev := [.storeLoad 0#16 n] } :=
  { outputsOf_idle (.load ans) with
    ev := nofun
    storeLoad := fun off k h => ⟨by simp_all, ans, rfl⟩
    storeSave := fun off k d h => by simp at h }

theorem loadTable_outputs {ans : StorageAnswer} {s t : State} (hs : s.ports = Ports.idle)
    (h : loadTable ans s = .done t) : OutputsOf (.load ans) t.ports := by
  rcases loadTable_cases ans s with ⟨d, -, -, hb⟩ | ⟨-, hb⟩ | hb <;> rw [hb] at h <;> cases h
  all_goals
    dsimp only
    rw [hs]
    exact outputsOf_load ans _

theorem outputsOf_save (ans : StorageAnswer) (v : Word) (n : BitVec 16) (image : List Byte) :
    OutputsOf (.save ans) { res := v, ev := [.storeSave 0#16 n image] } :=
  { outputsOf_idle (.save ans) with
    res := nofun
    ev := nofun
    storeLoad := fun off k h => by simp at h
    storeSave := fun off k d h => ⟨by simp_all, ans, rfl⟩ }

theorem saveTable_outputs {ans : StorageAnswer} {s t : State} (h : saveTable ans s = .done t) :
    OutputsOf (.save ans) t.ports := by
  unfold saveTable at h
  split at h
  · cases h
  · cases ans <;> cases h
    all_goals exact outputsOf_save _ _ _ _

/-- A body that is done, run with default outputs, drives the outputs its operation writes and no other. -/
theorem bodyOf_outputs {i : Instr} {s t : State} (hs : s.ports = Ports.idle) (h : bodyOf i s = .done t) :
    OutputsOf i t.ports := by
  cases i with
  | pb b => exact (receiveByte_done h).outputs hs
  | prst | sid _ | scmd _ | spar _ | trst => cases h; exact hs ▸ outputsOf_idle _
  | uck => exact updateChecksum_outputs hs h
  | ser m => exact serialize_outputs h
  | rid | rcmd | rlen | rnp | rchk => exact readOut_outputs rfl h
  | rpar k => exact readParam_outputs h
  | tgetU8 off | tgetS8 off | tgetU16 off | tgetS16 off | tgetU32 off | tgetS32 off => exact tableGet_outputs rfl h
  | tsetU8 off v | tsetS8 off v | tsetU16 off v | tsetS16 off v | tsetU32 off v | tsetS32 off v =>
    exact tableSet_outputs rfl hs h
  | load ans => exact loadTable_outputs hs h
  | save ans => exact saveTable_outputs h

theorem exec_outputs {i : Instr} {s t : State} (h : exec i s = .next t) : OutputsOf i t.ports := by
  rcases exec_next h with ⟨-, -, rfl⟩ | ⟨-, hb⟩ | ⟨-, c, -, rfl⟩
  · exact outputsOf_idle i
  · exact bodyOf_outputs rfl hb
  · exact outputsOf_idle i

end Sys2Proof.Machine
end

section
/-! PROOFS. The statements of the family 20_memory.md, each from the lemmas above. -/

namespace Sys2Proof.MemoryRules

open Sys2Proof.Machine Sys2Proof.Claims

/-- Settles O39: a base `TGET` that does not fault drives the outputs alone, and no operation reads them. -/
theorem baseReadIsIdempotent : Obligations.BaseReadIsIdempotent := by
  intro n signed mk hmk s t off hd hr h hf
  rcases exec_next h with ⟨hs, -, -⟩ | ⟨-, hb⟩ | ⟨-, c, -, rfl⟩
  · exact absurd hs (by simp [hr.1])
  · rw [bodyOf_get hmk] at hb
    obtain ⟨p, rfl⟩ := tableGet_base_done (s := s.quiet) hd hb
    exact ⟨rfl, (exec_drive (mk off) s p).trans h⟩
  · cases hf

/-- Settles O40: the memory of the statement is the table after `writeLE`. -/
theorem tableWrite : Obligations.TableWrite := by
  intro n mk hmk s off v hr
  exact ⟨exec_set_bounds hmk v hr, fun hb => ⟨_, fun a => Memory.read_writeLE _ _ _ a v, exec_set hmk v hr hb⟩⟩

/-- Settles O44: the base device's hook writes nothing, so only the bytes of the write differ. -/
theorem tableWriteFrame : Obligations.TableWriteFrame := by
  intro n mk hmk s t off v hd hr hb h
  cases (exec_set_base hmk v hd hr hb).symm.trans h
  refine ⟨rfl, fun a ha => ?_⟩
  rw [Memory.read_writeLE, if_neg (by omega)]

/-- Settles O45: the base device's hooks leave the written bytes as they are, and the read assembles them. -/
theorem writeThenRead : Obligations.WriteThenRead := by
  intro n mkSet hset m signed mkGet hget s off off' v j hd hr hb hoff hj
  refine ⟨_, _, exec_set_base hset v hd hr hb, exec_get_base hget (v := v.toNat / 256 ^ j % 256 ^ m) ?_ ?_ ?_ ?_, ?_⟩
  · exact hd
  · exact hr
  · dsimp only
    omega
  · rw [hoff]
    exact Memory.readLE_writeLE _ _ _ v hj
  · exact extend_eq_extended signed (pos_of_mem_gets hget) (Nat.mod_lt _ (by positivity))

/-- Settles O47: the TRST-body's table is a function of the parameters alone. -/
theorem tableResetIdempotent : Obligations.TableResetIdempotent := by
  intro s s' hr hr' hcfg
  refine ⟨_, _, _, exec_trst hr, exec_trst hr', ?_, exec_trst hr, rfl⟩
  dsimp only
  rw [hcfg]

/-- Settles O56: a framer operation other than `PB` and `SPAR` stores nothing; `SAVE` and a base `TGET` drive the outputs
alone. -/
theorem noStoreForms : Obligations.NoStoreForms := by
  intro i s t h hi a
  suffices hm : t.par = s.par ∧ t.tbl = s.tbl by
    obtain ⟨hpar, htbl⟩ := hm
    exact ⟨by rw [hpar], by rw [htbl]⟩
  rcases hi with rfl | rfl | ⟨m, rfl⟩ | ⟨b, rfl⟩ | ⟨b, rfl⟩ | rfl | rfl | rfl | rfl | ⟨k, rfl⟩ | rfl | ⟨ans, rfl⟩ |
    ⟨hd, n, signed, mk, off, hmk, rfl⟩
  iterate 11 exact exec_memories_of_framer h rfl nofun nofun
  · exact exec_memories_of_drives h fun u hu => saveTable_done hu
  · exact exec_memories_of_drives h fun u hu => tableGet_base_done (s := s.quiet) hd (bodyOf_get hmk off ▸ hu)

/-- Settles O57, from the outputs of each operation. -/
theorem defaultOutputs : Obligations.DefaultOutputs := by
  intro i s t h
  obtain ⟨hst, hres, hout, hev, hload, hsave⟩ := exec_outputs h
  exact ⟨hst, hres, hout, hev, hload, hsave⟩

end Sys2Proof.MemoryRules
end

section
/-! PROOFS. What a request decodes to, said once in each direction: an operation's own word decodes to that operation with the
operands on the ports, and the other words are those rule R92 reserves. -/

namespace Sys2Proof

open Sys2Proof.Claims (Reserved SamePorts)

/-! ## The operands a request carries (R87) -/

/-- Operation `i` with its operands read from the ports of `r`. -/
def Instr.withPorts (i : Instr) (r : Request) : Instr :=
  match i with
  | .pb _ => .pb (byteOperand r.b)
  | .prst => .prst
  | .uck => .uck
  | .ser _ => .ser r.a
  | .sid _ => .sid (byteOperand r.b)
  | .scmd _ => .scmd (byteOperand r.b)
  | .spar _ => .spar r.seq
  | .rid => .rid
  | .rcmd => .rcmd
  | .rlen => .rlen
  | .rnp => .rnp
  | .rpar _ => .rpar r.a
  | .rchk => .rchk
  | .tgetU8 _ => .tgetU8 r.a
  | .tgetS8 _ => .tgetS8 r.a
  | .tgetU16 _ => .tgetU16 r.a
  | .tgetS16 _ => .tgetS16 r.a
  | .tgetU32 _ => .tgetU32 r.a
  | .tgetS32 _ => .tgetS32 r.a
  | .tsetU8 _ _ => .tsetU8 r.a r.b
  | .tsetS8 _ _ => .tsetS8 r.a r.b
  | .tsetU16 _ _ => .tsetU16 r.a r.b
  | .tsetS16 _ _ => .tsetS16 r.a r.b
  | .tsetU32 _ _ => .tsetU32 r.a r.b
  | .tsetS32 _ _ => .tsetS32 r.a r.b
  | .load _ => .load r.sresp
  | .save _ => .save r.sresp
  | .trst => .trst

/-- The ports rule R87 lists for an operation are those its operands come from. -/
theorem samePorts_iff {i : Instr} {r r' : Request} : SamePorts i r r' ↔ i.withPorts r = i.withPorts r' := by
  cases i with
  | pb b | sid b | scmd b => simp [SamePorts, Instr.withPorts, byteOperand_eq]
  | _ => simp [SamePorts, Instr.withPorts]

/-- The encoder puts every operand on the port it is read from. -/
@[simp] theorem withPorts_encode (i : Instr) : i.withPorts (encode i) = i := by
  cases i with
  | pb b | sid b | scmd b => simp [Instr.withPorts, encode, byteOperand_setWidth]
  | _ => rfl

@[simp] theorem encode_opw (i : Instr) : (encode i).opw = opwOf i := by cases i <;> rfl

/-! ## The 28 legal words (R91) -/

/-- An operation's own word decodes to that operation with the operands on the ports, if `SEQ` carries them (R7). -/
theorem decode_of_opw {r : Request} {i : Instr} (h : r.opw = opwOf i) :
    decode r = if (i.withPorts r).wellFormed = true then .ok (i.withPorts r) else .error .seqTooLong := by
  obtain ⟨w, a, b, q, ans⟩ := r
  obtain rfl : w = opwOf i := h
  cases i with
  | spar q' =>
    simp [decode, opwOf, opField, lowField, decodeSpar, Instr.withPorts, Instr.wellFormed]
  | _ =>
    simp [decode, opwOf, opField, wcField, sField, lowField, decodePlain, decodeTget, decodeTset, Instr.withPorts,
      Instr.wellFormed]

/-- A request decodes to an operation exactly when it carries the operation's word, and on the ports its operands. -/
theorem decode_eq_ok_iff {r : Request} {i : Instr} :
    decode r = .ok i ↔ r.opw = opwOf i ∧ i.wellFormed = true ∧ i.withPorts r = i := by
  constructor
  · intro h
    have hw : r.opw = opwOf i := (opwOf_of_decode h).symm
    rw [decode_of_opw hw] at h
    split at h
    next hwf =>
      have hports : i.withPorts r = i := Except.ok.inj h
      exact ⟨hw, hports ▸ hwf, hports⟩
    next => cases h
  · rintro ⟨hw, hwf, hports⟩
    rw [decode_of_opw hw, hports, if_pos hwf]

/-! ## The 228 reserved words (R92) -/

theorem decodeTget_reserved {w : Byte} {a : PortA} :
    decodeTget (wcField w).toNat (sField w).toNat a = .error .reservedOp ↔ w.toNat / 2 % 4 = 3 := by
  have hwc := wcField_toNat w
  have hs := sField_toNat w
  rcases decodeTget_cases (wcField w).toNat (sField w).toNat a with
    ⟨h, -, hd⟩ | ⟨h, -, hd⟩ | ⟨h, -, hd⟩ | ⟨h, -, hd⟩ | ⟨h, -, hd⟩ | ⟨h, -, hd⟩ | ⟨h, hd⟩ <;> simp [hd] <;> omega

theorem decodeTset_reserved {w : Byte} {a : PortA} {b : Word} :
    decodeTset (wcField w).toNat (sField w).toNat a b = .error .reservedOp ↔ w.toNat / 2 % 4 = 3 := by
  have hwc := wcField_toNat w
  have hs := sField_toNat w
  rcases decodeTset_cases (wcField w).toNat (sField w).toNat a b with
    ⟨h, -, hd⟩ | ⟨h, -, hd⟩ | ⟨h, -, hd⟩ | ⟨h, -, hd⟩ | ⟨h, -, hd⟩ | ⟨h, -, hd⟩ | ⟨h, hd⟩ <;> simp [hd] <;> omega

/-- The words that decode to no operation are those of rule R92's three bullets. By the operation field: the low bits decide,
or the width code does, or the field itself is reserved. -/
theorem decode_reserved_iff (r : Request) : decode r = .error .reservedOp ↔ Reserved r.opw := by
  have hop := opField_toNat r.opw
  unfold decode
  split
  case h_7 => rw [decodeSpar_reserved]; omega
  case h_14 => rw [decodeTget_reserved]; omega
  case h_15 => rw [decodeTset_reserved]; omega
  case h_19 => simp only [true_iff, imp_false] at *; omega
  all_goals simp only [decodePlain_error, and_true]; omega

namespace Machine

/-! ## The step on a reserved word (R233) -/

theorem step_reserved {s : State} {r : Request} {rest : List HostInput} (h : s.Ready) (hi : s.inputs = .op r :: rest)
    (hd : decode r = .error .reservedOp) :
    step s = .next (State.enterFault { s with inputs := rest } .reservedOp r.opw) := by
  have hready : State.Ready { s with inputs := rest } := h
  rw [step_op hi, hd]
  exact operate_raise hready rfl

/-! ## The checksum (R81) -/

theorem checksumOf_toNat (sum : Nat) : (checksumOf sum).toNat = 255 - sum % 256 := by
  rw [checksumOf, BitVec.toNat_not, BitVec.toNat_ofNat]

theorem checksumOf_mod (sum : Nat) : checksumOf (sum % 256) = checksumOf sum := by
  apply BitVec.eq_of_toNat_eq
  rw [checksumOf_toNat, checksumOf_toNat, Nat.mod_mod]

end Machine

end Sys2Proof
end

section
/-! PROOFS. The statements of the family 30_encoding.md, each from the lemmas above. -/

namespace Sys2Proof.Encoding

open Sys2Proof.Machine Sys2Proof.Claims

/-- Settles O3: the encoded request carries the operation's word, and on the ports its operands. -/
theorem decodeOfEncode : Obligations.DecodeOfEncode := fun i hwf =>
  decode_eq_ok_iff.mpr ⟨encode_opw i, hwf, withPorts_encode i⟩

/-- Settles O2: the reserved words by operation field, their number by evaluation, and the fault entry of the step. -/
theorem reservedWordsFault : Obligations.ReservedWordsFault := by
  refine ⟨decode_reserved_iff, rfl, fun s r rest hr hi hw => ?_⟩
  exact step_reserved hr hi ((decode_reserved_iff r).mpr hw)

/-- Settles O4: a request that decodes carries the operation's word, and two that agree on its ports carry its operands
alike. -/
theorem decodeReadsListedPorts : Obligations.DecodeReadsListedPorts := by
  intro r r' i h
  obtain ⟨hw, hwf, hports⟩ := decode_eq_ok_iff.mp h
  refine ⟨by rw [encode_opw, hw], samePorts_iff.mpr (by rw [hports, withPorts_encode]), hwf, fun hw' hsame => ?_⟩
  have hports' : i.withPorts r' = i := (samePorts_iff.mp hsame).symm.trans hports
  exact decode_eq_ok_iff.mpr ⟨hw'.trans hw, hwf, hports'⟩

/-- Settles O1: each of the 28 words is its operation's own, and the operands are those on the ports. -/
theorem specWordsDecode : Obligations.SpecWordsDecode := by
  rintro a b q ans hq _ rfl
  simp [decode_eq_ok_iff, opwOf, Instr.wellFormed, Instr.withPorts, byteOperand_eq, maxSeq, hq]

/-- Settles O30: the remainder subtracted from 255 is the complement of a byte, and the byte of a sum is that of its
remainder. -/
theorem checksumForms : Obligations.ChecksumForms := fun _ _ _ _ =>
  ⟨checksumOf_toNat _, (checksumOf_mod _).symm⟩

end Sys2Proof.Encoding
end

section
/-! PROOFS. The receiver: what each parser state does with a byte, what one `PB` can change, and what a sequence of bytes
leaves (`FEED`, R98), up to a whole frame. -/

namespace Sys2Proof.Machine

open Sys2Proof.Claims (feed frame checksum)

/-! ## One byte, by parser state (R111 to R119) -/

theorem receiveByte_idle {s : State} (hp : s.pst = .idle) (b : Byte) :
    receiveByte b s = .done (if b = 0xFF then { s with pst := .sync1Seen } else s) := by
  rw [receiveByte, hp]
  rfl

theorem receiveByte_sync1Seen {s : State} (hp : s.pst = .sync1Seen) (b : Byte) :
    receiveByte b s = .done { s with pst := if b = 0xFF then .sync2Seen else .idle } := by
  rw [receiveByte, hp]
  exact congrArg OpResult.done (apply_ite (fun p => { s with pst := p }) (b = 0xFF) .sync2Seen .idle).symm

theorem receiveByte_sync2Seen {s : State} (hp : s.pst = .sync2Seen) (b : Byte) :
    receiveByte b s = .done (if b = 0xFF then s else { s with id := some b, chk := some b, pst := .idReceived }) := by
  rw [receiveByte, hp]
  rfl

theorem accumulate_some {s : State} {c : Byte} (hc : s.chk = some c) (b : Byte) (k : Byte → OpResult) :
    accumulate b s k = k (c + b) := by
  rw [accumulate, hc]

theorem receiveByte_idReceived {s : State} {c : Byte} (hp : s.pst = .idReceived) (hc : s.chk = some c) (b : Byte) :
    receiveByte b s = .done { s with len := some b, chk := some (c + b), pst := .lengthReceived } := by
  rw [receiveByte, hp]
  exact accumulate_some hc b _

theorem receiveByte_lengthReceived {s : State} {c : Byte} (hp : s.pst = .lengthReceived) (hc : s.chk = some c)
    (b : Byte) :
    receiveByte b s =
      .done { s with cmd := some b, chk := some (c + b), idx := some 0#8, pst := .receivingBody } := by
  rw [receiveByte, hp]
  exact accumulate_some hc b _

/-- In the body, `idx` against the declared count tells a parameter byte from the checksum byte (R116, R117). -/
theorem receiveByte_receivingBody {s : State} {l i : Byte} (hp : s.pst = .receivingBody) (hl : s.len = some l)
    (hi : s.idx = some i) (b : Byte) :
    receiveByte b s = if i.toNat < numParams l then receiveParam b i s else receiveChecksum b i s := by
  rw [receiveByte, hp, hl, hi]

theorem receiveByte_param {s : State} {c l i : Byte} (hp : s.pst = .receivingBody) (hc : s.chk = some c)
    (hl : s.len = some l) (hi : s.idx = some i) (hlt : i.toNat < numParams l) (b : Byte) :
    receiveByte b s =
      .done { s with
        chk := some (c + b)
        par := if i.toNat < s.cfg.capacity then s.par.write i.toNat b else s.par
        idx := some (i + 1#8) } := by
  rw [receiveByte_receivingBody hp hl hi, if_pos hlt]
  exact accumulate_some hc b _

theorem receiveByte_checksum {s : State} {c l i : Byte} (hp : s.pst = .receivingBody) (hc : s.chk = some c)
    (hl : s.len = some l) (hi : s.idx = some i) (hge : numParams l ≤ i.toNat) (b : Byte) :
    receiveByte b s =
      .done { s with
        pst := .idle
        chk := some b
        ports := { st := frameResult s.cfg.capacity i (~~~c == b) } } := by
  rw [receiveByte_receivingBody hp hl hi, if_neg (Nat.not_lt.mpr hge), receiveChecksum, hc]
  by_cases hb : ~~~c = b <;> simp [State.drive, hb]

theorem receiveByte_unused {s : State} (hp : s.pst = .unused6 ∨ s.pst = .unused7) (b : Byte) :
    receiveByte b s = .done s := by
  rcases hp with hp | hp <;> rw [receiveByte, hp]

/-- The checksum byte matches where it is the complement of the running sum (R117, R118). -/
theorem frameResult_eq (capacity : Nat) (i c b : Byte) :
    frameResult capacity i (~~~c == b) =
      if b.toNat = 255 - c.toNat then (if i.toNat ≤ capacity then 1 else 3) else 2 := by
  have hmatch : ~~~c = b ↔ b.toNat = 255 - c.toNat := by
    rw [BitVec.toNat_eq, BitVec.toNat_not, eq_comm]
  simp only [frameResult, beq_iff_eq, hmatch]
  rfl

/-- The running sum is taken mod 256 (R114 to R116). -/
theorem ofNat_sum_mod (c b : Byte) : BitVec.ofNat 8 ((c.toNat + b.toNat) % 256) = c + b := by
  apply BitVec.eq_of_toNat_eq
  simp

/-- A parameter byte is stored at its index, below the capacity only (R116). -/
theorem read_storeParam (m : Memory) (capacity i a : Nat) (b : Byte) :
    (if i < capacity then m.write i b else m).read a = if a = i ∧ i < capacity then some b else m.read a := by
  by_cases hcap : i < capacity
  · rw [if_pos hcap, Memory.read_write]
    simp only [hcap, and_true, eq_comm]
  · rw [if_neg hcap, if_neg (fun h => hcap h.2)]

/-! ## What one `PB` can change -/

theorem exec_pb_done {s t : State} {b : Byte} (hr : s.Ready) (h : receiveByte b s.quiet = .done t) :
    exec (.pb b) s = .next t := exec_done hr h

/-- All a `PB` on a block that takes operations can have done: a case of `Received`, or the fault entry. -/
theorem exec_pb_next {s t : State} {b : Byte} (hr : s.Ready) (h : exec (.pb b) s = .next t) :
    Received b s.quiet t ∨ ∃ c, t = s.enterFault c (opwOf (.pb b)) := by
  rcases exec_next h with ⟨hf, -, -⟩ | ⟨-, hb⟩ | ⟨-, c, -, rfl⟩
  · exact absurd hf (by simp [hr.1])
  · exact .inl (receiveByte_done hb)
  · exact .inr ⟨c, rfl⟩

/-- Only the id byte writes `id`, and it is never a sync byte (R113, R121). -/
theorem Received.id_eq {b : Byte} {s t : State} (h : Received b s t) :
    t.id = s.id ∨ (s.pst = .sync2Seen ∧ b ≠ 0xFF ∧ t.id = some b) := by
  cases h with
  | id hs hb => exact .inr ⟨hs, hb, rfl⟩
  | _ => exact .inl rfl

theorem Received.len_eq {b : Byte} {s t : State} (h : Received b s t) (hp : s.pst ≠ .idReceived) : t.len = s.len := by
  cases h with
  | length hs => exact absurd hs hp
  | _ => rfl

theorem Received.cmd_eq {b : Byte} {s t : State} (h : Received b s t) (hp : s.pst ≠ .lengthReceived) :
    t.cmd = s.cmd := by
  cases h with
  | command hs => exact absurd hs hp
  | _ => rfl

theorem Received.idx_eq {b : Byte} {s t : State} (h : Received b s t) (hp : s.pst ≠ .lengthReceived)
    (hp' : s.pst ≠ .receivingBody) : t.idx = s.idx := by
  cases h with
  | command hs => exact absurd hs hp
  | param hs => exact absurd hs hp'
  | _ => rfl

/-- `chk` is left alone before the id byte and in the unused states. -/
theorem Received.chk_eq {b : Byte} {s t : State} (h : Received b s t)
    (hp : s.pst = .idle ∨ s.pst = .sync1Seen ∨ s.pst = .unused6 ∨ s.pst = .unused7) : t.chk = s.chk := by
  cases h with
  | sync | unused => rfl
  | id hs | length hs | command hs | param hs | checksum hs => simp [hs] at hp

/-- The one parameter cell a `PB` may write: that at `idx`, below the capacity and the declared count (R116). -/
def State.ParamCell (s : State) (a : Nat) : Prop :=
  s.pst = .receivingBody ∧ a < s.cfg.capacity ∧
    ∃ l i, s.len = some l ∧ s.idx = some i ∧ i.toNat = a ∧ a < numParams l

theorem Received.par_eq {b : Byte} {s t : State} (h : Received b s t) {a : Nat} (ha : ¬s.ParamCell a) :
    t.par.read a = s.par.read a := by
  cases h with
  | @param c l i hs _ hl hi hlt =>
    refine (read_storeParam s.par s.cfg.capacity i.toNat a b).trans (if_neg ?_)
    rintro ⟨rfl, hcap⟩
    exact ha ⟨hs, hcap, l, i, hl, hi, rfl, hlt⟩
  | _ => rfl

/-- A received byte writes neither the table, the parameters, the pending inputs nor the draw counter. -/
theorem Received.outside_eq {b : Byte} {s t : State} (h : Received b s t) :
    t.tbl = s.tbl ∧ t.cfg = s.cfg ∧ t.inputs = s.inputs ∧ t.draws = s.draws := by
  cases h <;> exact ⟨rfl, rfl, rfl, rfl⟩

/-- Only the checksum byte drives a result, and it ends the frame (R117, R121). -/
theorem Received.result {b : Byte} {s t : State} (h : Received b s t) :
    t.ports = s.ports ∨ (t.pst = .idle ∧ t.chk = some b ∧ s.pst = .receivingBody) := by
  cases h with
  | checksum hs => exact .inr ⟨rfl, rfl, hs⟩
  | _ => exact .inl rfl

/-! ## Completion (R110) -/

/-- A frame in progress that has its registers receives any byte. -/
theorem receiveByte_completes {s : State} (h : s.MidFrameWritten) (b : Byte) : ∃ t, receiveByte b s = .done t := by
  unfold State.MidFrameWritten at h
  cases hp : s.pst <;> simp only [hp, Option.isSome_iff_exists] at h
  case idle => exact ⟨_, receiveByte_idle hp b⟩
  case sync1Seen => exact ⟨_, receiveByte_sync1Seen hp b⟩
  case sync2Seen => exact ⟨_, receiveByte_sync2Seen hp b⟩
  case idReceived =>
    obtain ⟨c, hc⟩ := h
    exact ⟨_, receiveByte_idReceived hp hc b⟩
  case lengthReceived =>
    obtain ⟨⟨c, hc⟩, -⟩ := h
    exact ⟨_, receiveByte_lengthReceived hp hc b⟩
  case receivingBody =>
    obtain ⟨⟨c, hc⟩, ⟨l, hl⟩, i, hi⟩ := h
    rcases Nat.lt_or_ge i.toNat (numParams l) with hlt | hge
    · exact ⟨_, receiveByte_param hp hc hl hi hlt b⟩
    · exact ⟨_, receiveByte_checksum hp hc hl hi hge b⟩
  case unused6 => exact ⟨_, receiveByte_unused (.inl hp) b⟩
  case unused7 => exact ⟨_, receiveByte_unused (.inr hp) b⟩

/-- A received byte leaves each parser state with the registers it reads. -/
theorem Received.midFrameWritten {b : Byte} {s t : State} (h : Received b s t) (hs : s.MidFrameWritten) :
    t.MidFrameWritten := by
  cases h with
  | sync _ hp => rcases hp with rfl | rfl | rfl <;> trivial
  | id => rfl
  | length => exact ⟨rfl, rfl⟩
  | command hp =>
    rw [State.MidFrameWritten, hp] at hs
    exact ⟨rfl, hs.2, rfl⟩
  | param => exact midFrameWritten_mono hs rfl (fun _ => rfl) (fun h => h) (fun _ => rfl)
  | checksum => trivial
  | unused => exact hs

/-! ## Sequences of bytes (R98) -/

theorem feed_cons {b : Byte} {bs : List Byte} {s t u : State} {sts : List (BitVec 2)} (h : exec (.pb b) s = .next t)
    (h' : feed bs t = some (sts, u)) : feed (b :: bs) s = some (t.ports.st :: sts, u) := by
  simp [feed, h, h']

theorem feed_singleton {b : Byte} {s t : State} (h : exec (.pb b) s = .next t) : feed [b] s = some ([t.ports.st], t) :=
  feed_cons h rfl

theorem feed_append {bs bs' : List Byte} {s t u : State} {sts sts' : List (BitVec 2)} (h : feed bs s = some (sts, t))
    (h' : feed bs' t = some (sts', u)) : feed (bs ++ bs') s = some (sts ++ sts', u) := by
  induction bs generalizing s sts with
  | nil =>
    cases h
    exact h'
  | cons b bs ih =>
    simp only [feed] at h
    split at h
    next s1 hs1 =>
      obtain ⟨⟨sts1, t1⟩, h1, heq⟩ := Option.map_eq_some_iff.mp h
      cases heq
      exact feed_cons hs1 (ih h1)
    next => cases h

/-- No operation reads the output ports, so they play no part in what a byte sequence does (R35). -/
theorem feed_quiet {bs : List Byte} (hbs : bs ≠ []) (s : State) : feed bs s.quiet = feed bs s := by
  obtain ⟨b, rest, rfl⟩ := List.exists_cons_of_ne_nil hbs
  simp only [feed, State.quiet, exec_drive]

/-- Bytes that each leave the state as it is, with the result `Incomplete`. -/
theorem feed_fixed {bs : List Byte} {s : State} (hst : s.ports.st = 0) (h : ∀ b ∈ bs, exec (.pb b) s = .next s) :
    feed bs s = some (List.replicate bs.length 0, s) := by
  induction bs with
  | nil => rfl
  | cons b bs ih =>
    obtain ⟨hb, hbs⟩ := List.forall_mem_cons.mp h
    have := feed_cons hb (ih hbs)
    rwa [hst] at this

/-- The parser among the sync states, its outputs at their defaults. -/
def State.syncing (s : State) (p : ParserState) : State := { s.quiet with pst := p }

/-- Noise without a sync byte leaves an idle parser idle (R111). -/
theorem feed_noise {s : State} (hr : s.Ready) {noise : List Byte} (hn : ∀ b ∈ noise, b ≠ 0xFF) :
    feed noise (s.syncing .idle) = some (List.replicate noise.length 0, s.syncing .idle) :=
  feed_fixed rfl fun b hb => by
    have h := receiveByte_idle (s := s.syncing .idle) rfl b
    rw [if_neg (hn b hb)] at h
    exact exec_pb_done hr h

/-- Two or more sync bytes collapse to one frame start (R111 to R113). -/
theorem feed_sync {s : State} (hr : s.Ready) (k : Nat) :
    feed (List.replicate (k + 2) 0xFF) (s.syncing .idle) =
      some (List.replicate (k + 2) 0, s.syncing .sync2Seen) := by
  have hfirst : exec (.pb 0xFF) (s.syncing .idle) = .next (s.syncing .sync1Seen) :=
    exec_pb_done hr (receiveByte_idle (s := s.syncing .idle) rfl _)
  have hsecond : exec (.pb 0xFF) (s.syncing .sync1Seen) = .next (s.syncing .sync2Seen) :=
    exec_pb_done hr (receiveByte_sync1Seen (s := s.syncing .sync1Seen) rfl _)
  have hextra : exec (.pb 0xFF) (s.syncing .sync2Seen) = .next (s.syncing .sync2Seen) :=
    exec_pb_done hr (receiveByte_sync2Seen (s := s.syncing .sync2Seen) rfl _)
  have hrest := feed_fixed (bs := List.replicate k 0xFF) (s := s.syncing .sync2Seen) rfl
    fun b hb => List.eq_of_mem_replicate hb ▸ hextra
  rw [List.length_replicate] at hrest
  exact feed_cons hfirst (feed_cons hsecond hrest)

/-- In the body of a frame: the running sum is `sum` mod 256, `i` parameter bytes are counted, `m` is the buffer. -/
def State.inBody (s : State) (sum i : Nat) (m : Memory) : State :=
  { s.quiet with pst := .receivingBody, chk := some (BitVec.ofNat 8 sum), idx := some (BitVec.ofNat 8 i), par := m }

/-- The state with a frame's header bytes in their registers (R113 to R115). -/
def State.withHeader (s : State) (x l c : Byte) : State := { s with id := some x, len := some l, cmd := some c }

/-- The header after the sync bytes opens the body: the sum of its three bytes, no parameter counted (R113 to R115). -/
theorem feed_header {s : State} (hr : s.Ready) {x : Byte} (hx : x ≠ 0xFF) (l c : Byte) :
    feed [x, l, c] (s.syncing .sync2Seen) =
      some (List.replicate 3 0, (s.withHeader x l c).inBody (x.toNat + l.toNat + c.toNat) 0 s.par) := by
  have hid : exec (.pb x) (s.syncing .sync2Seen) =
      .next { s.quiet with pst := .idReceived, id := some x, chk := some x } := by
    have h := receiveByte_sync2Seen (s := s.syncing .sync2Seen) rfl x
    rw [if_neg hx] at h
    exact exec_pb_done hr h
  have hlen : exec (.pb l) { s.quiet with pst := .idReceived, id := some x, chk := some x } =
      .next { s.quiet with pst := .lengthReceived, id := some x, len := some l, chk := some (x + l) } :=
    exec_pb_done hr (receiveByte_idReceived rfl rfl l)
  have hcmd : exec (.pb c) { s.quiet with pst := .lengthReceived, id := some x, len := some l, chk := some (x + l) } =
      .next ((s.withHeader x l c).inBody (x.toNat + l.toNat + c.toNat) 0 s.par) := by
    rw [State.inBody, show BitVec.ofNat 8 (x.toNat + l.toNat + c.toNat) = x + l + c by simp [BitVec.ofNat_add]]
    exact exec_pb_done hr (receiveByte_lengthReceived rfl rfl c)
  exact feed_cons hid (feed_cons hlen (feed_singleton hcmd))

/-- `idx` holds any count up to the declared one (R26). -/
theorem toNat_ofNat_count {n : Nat} {l : Byte} (h : n ≤ numParams l) : (BitVec.ofNat 8 n).toNat = n := by
  have hl := numParams_le l
  exact Nat.mod_eq_of_lt (by omega)

/-- One more parameter byte (R116). -/
theorem exec_pb_inBody {s : State} (hr : s.Ready) {l : Byte} (hl : s.len = some l) {i : Nat} (hi : i < numParams l)
    (sum : Nat) (m : Memory) (b : Byte) :
    exec (.pb b) (s.inBody sum i m) =
      .next (s.inBody (sum + b.toNat) (i + 1) (if i < s.cfg.capacity then m.write i b else m)) := by
  have hidx := toNat_ofNat_count hi.le
  have hb := receiveByte_param (s := s.inBody sum i m) rfl rfl hl rfl (by rwa [hidx]) b
  rw [hidx] at hb
  simp only [State.inBody, BitVec.ofNat_add, BitVec.ofNat_toNat, BitVec.setWidth_eq]
  exact exec_pb_done hr hb

/-- Storing a parameter byte and then the rest that fits stores all of them that fit (R116). -/
theorem writeBytes_take_cons (m : Memory) (capacity i : Nat) (b : Byte) (bs : List Byte) :
    (if i < capacity then m.write i b else m).writeBytes (i + 1) (bs.take (capacity - (i + 1))) =
      m.writeBytes i ((b :: bs).take (capacity - i)) := by
  split
  next h =>
    rw [show capacity - i = capacity - (i + 1) + 1 by omega]
    rfl
  next h =>
    rw [show capacity - i = 0 by omega, show capacity - (i + 1) = 0 by omega]
    rfl

/-- Parameter bytes up to the declared count are summed and counted, and those below the capacity are stored (R116). -/
theorem feed_params {s : State} (hr : s.Ready) {l : Byte} (hl : s.len = some l) (ps : List Byte) {i : Nat}
    (hi : i + ps.length ≤ numParams l) (sum : Nat) (m : Memory) :
    feed ps (s.inBody sum i m) =
      some (List.replicate ps.length 0, s.inBody (sum + (ps.map BitVec.toNat).sum) (i + ps.length)
        (m.writeBytes i (ps.take (s.cfg.capacity - i)))) := by
  induction ps generalizing i sum m with
  | nil => rw [List.take_nil]; rfl
  | cons b ps ih =>
    simp only [List.length_cons] at hi
    have hrest := ih (i := i + 1) (by omega) (sum + b.toNat) (if i < s.cfg.capacity then m.write i b else m)
    rw [writeBytes_take_cons, Nat.add_assoc sum, Nat.add_assoc i, Nat.add_comm 1] at hrest
    exact feed_cons (exec_pb_inBody hr hl (by omega) sum m b) hrest

/-! ## A whole frame -/

/-- The result of a frame (R118). -/
def frameStatus (capacity : Nat) (x l c : Byte) (ps : List Byte) (w : Byte) : BitVec 2 :=
  if w.toNat = checksum x.toNat l.toNat c.toNat ps then (if ps.length ≤ capacity then 1 else 3) else 2

/-- What a frame leaves: its bytes in the registers, the parameters that fit stored, the parser idle. -/
def State.withFrame (s : State) (x l c : Byte) (ps : List Byte) (w : Byte) : State :=
  { s.withHeader x l c with
    pst := .idle
    chk := some w
    idx := some (BitVec.ofNat 8 ps.length)
    par := s.par.writeBytes 0 (ps.take s.cfg.capacity)
    ports := { st := frameStatus s.cfg.capacity x l c ps w } }

/-- A frame's parameters fill the buffer up to the capacity (R116). -/
theorem read_withFrame_par (s : State) (x l c : Byte) (ps : List Byte) (w : Byte) (a : Nat) :
    (s.withFrame x l c ps w).par.read a = if a < min ps.length s.cfg.capacity then ps[a]? else s.par.read a := by
  have h := Memory.read_writeBytes s.par 0 a (ps.take s.cfg.capacity)
  rw [List.length_take, min_comm] at h
  refine h.trans ?_
  simp only [Nat.zero_le, true_and, Nat.zero_add, Nat.sub_zero]
  split
  next ha => rw [List.getElem?_take_of_lt (by omega)]
  next => rfl

/-- A byte sum that differs mod 256 has another checksum (R81). -/
theorem checksum_ne {x x' c c' : Byte} {ps ps' : List Byte} (l : Byte)
    (h : (x'.toNat + c'.toNat + (ps'.map BitVec.toNat).sum) % 256 ≠
      (x.toNat + c.toNat + (ps.map BitVec.toNat).sum) % 256) :
    checksum x.toNat l.toNat c.toNat ps ≠ checksum x'.toNat l.toNat c'.toNat ps' := by
  unfold checksum
  omega

theorem frameStatus_of_ne {capacity : Nat} {x l c w : Byte} {ps : List Byte}
    (h : w.toNat ≠ checksum x.toNat l.toNat c.toNat ps) : frameStatus capacity x l c ps w = 2 := if_neg h

theorem frameStatus_of_eq {capacity : Nat} {x l c w : Byte} {ps : List Byte}
    (h : w.toNat = checksum x.toNat l.toNat c.toNat ps) :
    frameStatus capacity x l c ps w = if ps.length ≤ capacity then 1 else 3 := if_pos h

/-- The state after the last parameter byte of a frame. -/
def State.beforeChecksum (s : State) (x l c : Byte) (ps : List Byte) : State :=
  (s.withHeader x l c).inBody (x.toNat + l.toNat + c.toNat + (ps.map BitVec.toNat).sum) ps.length
    (s.par.writeBytes 0 (ps.take s.cfg.capacity))

/-- The checksum byte ends the frame whose declared parameters are all counted (R117, R118). -/
theorem exec_pb_beforeChecksum {s : State} (hr : s.Ready) (x : Byte) {l : Byte} (c : Byte) {ps : List Byte}
    (hps : ps.length = numParams l) (w : Byte) :
    exec (.pb w) (s.beforeChecksum x l c ps) = .next (s.withFrame x l c ps w) := by
  have hidx := toNat_ofNat_count hps.le
  have hw := receiveByte_checksum (s := s.beforeChecksum x l c ps) rfl rfl rfl rfl (by rw [hidx, hps]) w
  rw [frameResult_eq, hidx, BitVec.toNat_ofNat] at hw
  exact exec_pb_done hr hw

/-- Noise and extra sync bytes before a frame, regrouped by what the parser does with them. -/
theorem noise_sync_frame (noise : List Byte) (k : Nat) (x l c w : Byte) (ps : List Byte) :
    noise ++ List.replicate k 0xFF ++ frame x l c ps w =
      noise ++ (List.replicate (k + 2) 0xFF ++ ([x, l, c] ++ (ps ++ [w]))) := by
  have hframe : frame x l c ps w = List.replicate 2 0xFF ++ ([x, l, c] ++ (ps ++ [w])) := rfl
  rw [hframe, List.replicate_add, List.append_assoc, List.append_assoc]

/-- A whole frame, after any noise and any number of extra sync bytes (R111 to R118). -/
theorem feed_frame {s : State} (hr : s.Ready) (hp : s.pst = .idle) {noise : List Byte} (hn : ∀ b ∈ noise, b ≠ 0xFF)
    (k : Nat) {x l : Byte} (hx : x ≠ 0xFF) (c : Byte) {ps : List Byte} (hps : ps.length = numParams l) (w : Byte) :
    feed (noise ++ List.replicate k 0xFF ++ frame x l c ps w) s =
      some (List.replicate (noise.length + k + 5 + ps.length) 0 ++ [frameStatus s.cfg.capacity x l c ps w],
        s.withFrame x l c ps w) := by
  have hbody : feed ps ((s.withHeader x l c).inBody (x.toNat + l.toNat + c.toNat) 0 s.par) =
      some (List.replicate ps.length 0, s.beforeChecksum x l c ps) := by
    have h := feed_params (s := s.withHeader x l c) hr rfl ps (i := 0) (by omega) (x.toNat + l.toNat + c.toNat) s.par
    rwa [Nat.zero_add] at h
  have hend : feed [w] (s.beforeChecksum x l c ps) =
      some ([frameStatus s.cfg.capacity x l c ps w], s.withFrame x l c ps w) :=
    feed_singleton (exec_pb_beforeChecksum hr x c hps w)
  have hidle : s.syncing .idle = s.quiet := by rw [← hp]; rfl
  rw [noise_sync_frame, ← feed_quiet (by simp), ← hidle]
  rw [feed_append (feed_noise hr hn) (feed_append (feed_sync hr k)
    (feed_append (feed_header hr hx l c) (feed_append hbody hend)))]
  simp only [← List.append_assoc, List.replicate_append_replicate]
  rw [show noise.length + (k + 2 + (3 + ps.length)) = noise.length + k + 5 + ps.length by omega]

/-- A frame alone: its results and the state it leaves. -/
theorem feed_frame_alone {s : State} (hr : s.Ready) (hp : s.pst = .idle) {x l : Byte} (hx : x ≠ 0xFF) (c : Byte)
    {ps : List Byte} (hps : ps.length = numParams l) (w : Byte) :
    feed (frame x l c ps w) s =
      some (List.replicate (5 + ps.length) 0 ++ [frameStatus s.cfg.capacity x l c ps w], s.withFrame x l c ps w) := by
  have h := feed_frame hr hp (noise := []) nofun 0 hx c hps w
  rwa [List.length_nil, Nat.zero_add] at h

end Sys2Proof.Machine
end

section
/-! PROOFS. The statements of the family 40_framer_receive.md, each from the lemmas above. -/

namespace Sys2Proof.FramerReceive

open Sys2Proof.Machine Sys2Proof.Claims

/-- Settles O25: the noise, the sync bytes, the header, the parameters by induction, then the checksum byte. -/
theorem frameReception : Obligations.FrameReception := by
  intro s noise k x l c w ps hr hp hn hx hps
  exact ⟨s.withFrame x l c ps w, feed_frame hr hp hn k hx c hps w, rfl, rfl, rfl, rfl, rfl, rfl,
    read_withFrame_par s x l c ps w, rfl, hr.1, rfl⟩

/-- Settles O17. -/
theorem parameterByte : Obligations.ParameterByte := by
  intro s b c l i hr hp hc hl hi hlt
  have hl253 := numParams_le l
  refine ⟨_, exec_pb_done hr (receiveByte_param (s := s.quiet) hp hc hl hi hlt b), ?_,
    fun a => read_storeParam s.par s.cfg.capacity i.toNat a b, Nat.le_trans hlt hl253⟩
  rw [ofNat_sum_mod, BitVec.ofNat_add, BitVec.ofNat_toNat, BitVec.setWidth_eq]
  rfl

/-- Settles O18: `frameResult` compares the complement of the running sum with the byte received. -/
theorem checksumByte : Obligations.ChecksumByte := by
  intro s b c l i hr hp hc hl hi hge
  rw [← frameResult_eq]
  exact exec_pb_done hr (receiveByte_checksum (s := s.quiet) hp hc hl hi hge b)

/-- Settles O22. -/
theorem receiverCompletes : Obligations.ReceiverCompletes := by
  intro s b hr hm
  obtain ⟨t, ht⟩ := receiveByte_completes (s := s.quiet) hm b
  obtain ⟨hf, -⟩ := bodyOf_done (i := .pb b) ht
  exact ⟨t, exec_pb_done hr ht, hf.trans hr.1, (receiveByte_done ht).midFrameWritten hm⟩

/-- Settles O23: a received byte by what it can change; the fault entry changes no register or cell. -/
theorem receiverFrame : Obligations.ReceiverFrame := by
  intro s t b hr h
  rcases exec_pb_next hr h with hrec | ⟨c, rfl⟩
  · obtain ⟨htbl, hcfg, hinputs, hdraws⟩ := hrec.outside_eq
    refine ⟨htbl, hcfg, hinputs, hdraws, fun hp => ?_, hrec.len_eq, hrec.cmd_eq, hrec.idx_eq, hrec.chk_eq,
      fun a ha => hrec.par_eq ha⟩
    exact hrec.id_eq.resolve_right fun ⟨hs, _⟩ => hp hs
  · exact ⟨rfl, rfl, rfl, rfl, fun _ => rfl, fun _ => rfl, fun _ => rfl, fun _ _ => rfl, fun _ => rfl, fun _ _ => rfl⟩

/-- Settles O24: only the checksum byte drives a result, a written cell lies below the capacity, and the id byte is no sync
byte; the fault entry drives the default outputs. -/
theorem receiverInvariants : Obligations.ReceiverInvariants := by
  intro s t b hr h
  rcases exec_pb_next hr h with hrec | ⟨c, rfl⟩
  · refine ⟨fun hst => hrec.result.resolve_left fun hq => hst (by rw [hq]; rfl), fun a ha => ?_, fun hid => ?_⟩
    · exact hrec.par_eq fun ⟨_, hlt, _⟩ => Nat.not_lt.mpr ha hlt
    · rcases hrec.id_eq with heq | ⟨-, hb, heq⟩
      · exact heq.symm.trans hid
      · exact absurd (Option.some.inj (heq.symm.trans hid)) hb
  · exact ⟨fun hst => absurd rfl hst, fun _ _ => rfl, fun hid => hid⟩

/-- Settles O26: each clause reads the result or the state off `feed_frame`. -/
theorem receiverStatedProperties : Obligations.ReceiverStatedProperties := by
  intro s x l c w ps hr hp hx hps hw
  refine ⟨fun noise k hn => ?_, fun x' c' ps' hx' hlen hsum => ?_, fun hcap => ?_, fun hcap => ?_⟩
  · rw [feed_frame hr hp hn k hx c hps w, feed_frame_alone hr hp hx c hps w]
    simp only [Option.map_some, List.getLast?_concat]
  · have hw' : w.toNat ≠ checksum x'.toNat l.toNat c'.toNat ps' := hw ▸ checksum_ne l hsum
    rw [feed_frame_alone hr hp hx' c' (hlen.trans hps) w, frameStatus_of_ne hw', Option.map_some, List.getLast?_concat]
  · rw [feed_frame_alone hr hp hx c hps w, frameStatus_of_eq hw, if_pos hcap.le, Option.map_some, List.getLast?_concat]
  · refine ⟨_, _, feed_frame_alone hr hp hx c hps w, ?_, fun a ha => ?_⟩
    · rw [List.getLast?_concat, frameStatus_of_eq hw, if_neg (by omega)]
    · rw [read_withFrame_par, if_pos (by omega)]

/-- Settles O27: the two sync bytes are two parameter bytes of the body. -/
theorem noResyncInsideFrame : Obligations.NoResyncInsideFrame := by
  intro s c l i hr hp hc hl hi hle
  have hbody : s.quiet = s.inBody c.toNat i.toNat s.par := by
    simp only [State.inBody, BitVec.ofNat_toNat, BitVec.setWidth_eq, ← hp, ← hc, ← hi]
    rfl
  have h := feed_params hr hl [0xFF, 0xFF] hle c.toNat s.par
  rw [← hbody, feed_quiet (by simp)] at h
  exact ⟨_, h, rfl, rfl, rfl, rfl, rfl⟩

/-- Settles O15. -/
theorem syncStates : Obligations.SyncStates := by
  intro s b hr
  refine ⟨fun hp => ?_, fun hp => ?_, fun hp => ?_⟩
  · exact exec_pb_done hr (receiveByte_idle (s := s.quiet) hp b)
  · exact exec_pb_done hr (receiveByte_sync1Seen (s := s.quiet) hp b)
  · exact exec_pb_done hr (receiveByte_sync2Seen (s := s.quiet) hp b)

/-- Settles O16. -/
theorem lengthAndCommandBytes : Obligations.LengthAndCommandBytes := by
  intro s b c hr hc
  rw [ofNat_sum_mod]
  exact ⟨fun hp => exec_pb_done hr (receiveByte_idReceived (s := s.quiet) hp hc b),
    fun hp => exec_pb_done hr (receiveByte_lengthReceived (s := s.quiet) hp hc b)⟩

/-- Settles O19. -/
theorem unusedParserStates : Obligations.UnusedParserStates := fun s b hr hp =>
  ⟨exec_pb_done hr (receiveByte_unused (s := s.quiet) hp b), exec_done hr rfl⟩

/-- Settles O20. -/
theorem abandonFrame : Obligations.AbandonFrame := ⟨rfl, fun _ hr => exec_done hr rfl⟩

end Sys2Proof.FramerReceive
end

section
/-! PROOFS. The transmitter: what its setters leave, the packet a state holds with the checksum and the bytes it has on the
wire (R80, R81), and the accessors as one read-out. -/

namespace Sys2Proof.Machine

open Sys2Proof.Claims (feed frame checksum)

/-! ## Setters (R140 to R142) -/

theorem exec_sid {s : State} (hr : s.Ready) (b : Byte) : exec (.sid b) s = .next { s.quiet with id := some b } :=
  exec_done hr rfl

theorem exec_scmd {s : State} (hr : s.Ready) (b : Byte) : exec (.scmd b) s = .next { s.quiet with cmd := some b } :=
  exec_done hr rfl

theorem exec_spar {s : State} (hr : s.Ready) (q : List Byte) :
    exec (.spar q) s =
      .next { s.quiet with
        par := s.par.writeBytes 0 (q.take s.cfg.capacity)
        len := some (BitVec.ofNat 8 (min q.length s.cfg.capacity + 2)) } :=
  exec_done hr rfl

/-- The length register holds a count plus 2, up to 253 parameters (R142). -/
theorem toNat_ofNat_length {n : Nat} (h : n ≤ 253) : (BitVec.ofNat 8 (n + 2)).toNat = n + 2 :=
  Nat.mod_eq_of_lt (by omega)

/-- The bytes of a sequence that fit fill the buffer from its start; every other cell stays (R116, R142). -/
theorem read_writeBytes_take (m : Memory) (capacity : Nat) (q : List Byte) (a : Nat) :
    (m.writeBytes 0 (q.take capacity)).read a = if a < min q.length capacity then q[a]? else m.read a := by
  rw [Memory.read_writeBytes, List.length_take, min_comm, Nat.zero_add, Nat.sub_zero]
  simp only [Nat.zero_le, true_and]
  split
  next ha => rw [List.getElem?_take_of_lt (lt_min_iff.mp ha).2]
  next => rfl

/-! ## The checksum (R81, R145) -/

theorem lengthOf_eq_max (l : Byte) : lengthOf l = max l.toNat 2 := by
  rw [lengthOf, numParams]
  omega

theorem sumBytes_eq_sum (ps : List Byte) : sumBytes ps = (ps.map BitVec.toNat).sum := by
  induction ps with
  | nil => rfl
  | cons b ps ih => rw [sumBytes, ih, List.map_cons, List.sum_cons]

/-- The checksum byte of a packet has the value of R81. -/
theorem toNat_ofNat_checksum (x l c : Nat) (ps : List Byte) :
    (BitVec.ofNat 8 (checksum x l c ps)).toNat = checksum x l c ps :=
  Nat.mod_eq_of_lt (by unfold checksum; omega)

theorem checksumOf_eq_checksum (x l c : Nat) (ps : List Byte) :
    checksumOf (x + l + c + (ps.map BitVec.toNat).sum) = BitVec.ofNat 8 (checksum x l c ps) := by
  apply BitVec.eq_of_toNat_eq
  rw [checksumOf_toNat, toNat_ofNat_checksum, checksum]

/-! ## The packet a state holds -/

theorem packetCells_of_len {s : State} {l : Byte} (h : s.len = some l) :
    packetCells s =
      [some 0xFF, some 0xFF, s.id, some (BitVec.ofNat 8 (max l.toNat 2)), s.cmd] ++
        (List.range (stored s.cfg.capacity l)).map s.par.read ++ [s.chk] := by
  rw [← lengthOf_eq_max, packetCells, h]
  rfl

/-- `SER` never emits more than the packet's `6 + stored` bytes (R146). -/
theorem length_packetCells {s : State} {l : Byte} (h : s.len = some l) :
    (packetCells s).length = 6 + stored s.cfg.capacity l := by
  simp only [packetCells_of_len h, List.length_append, List.length_cons, List.length_nil, List.length_map,
    List.length_range]
  omega

theorem length_frame (x l c : Byte) (ps : List Byte) (w : Byte) : (frame x l c ps w).length = 6 + ps.length := by
  simp only [frame, List.length_append, List.length_cons, List.length_nil]
  omega

/-- What `UCK` leaves: the checksum register written, the outputs at their defaults (R145). -/
def State.withChecksum (s : State) (w : Byte) : State := { s.quiet with chk := some w }

/-- The registers and the stored parameter cells hold the packet of id `x`, length register `l`, command `c` and stored
parameters `ps` (R22 to R28). -/
structure State.Holds (s : State) (x l c : Byte) (ps : List Byte) : Prop where
  id : s.id = some x
  len : s.len = some l
  cmd : s.cmd = some c
  length : ps.length = stored s.cfg.capacity l
  par : ∀ i, i < ps.length → s.par.read i = ps[i]?

/-- Parameters written from the start of the buffer, within the capacity, are the stored ones. -/
theorem holds_of_writeBytes {s : State} {x l c : Byte} {ps : List Byte} {m : Memory} (hid : s.id = some x)
    (hlen : s.len = some l) (hcmd : s.cmd = some c) (hpar : s.par = m.writeBytes 0 (ps.take s.cfg.capacity))
    (hps : ps.length = numParams l) (hcap : ps.length ≤ s.cfg.capacity) : s.Holds x l c ps where
  id := hid
  len := hlen
  cmd := hcmd
  length := by rw [stored, ← hps, min_eq_left hcap]
  par i hi := by rw [hpar, read_writeBytes_take, if_pos (lt_min hi (hi.trans_le hcap))]

section Holds

variable {s : State} {x l c : Byte} {ps : List Byte} (h : s.Holds x l c ps)

include h

theorem State.Holds.cells_eq : s.par.cells (stored s.cfg.capacity l) = ps.map some :=
  cells_eq_map_some h.length fun i hi => h.par i (hi.trans_eq h.length.symm)

theorem State.Holds.packetChecksum_eq :
    packetChecksum s = some (BitVec.ofNat 8 (checksum x.toNat (max l.toNat 2) c.toNat ps)) := by
  simp only [packetChecksum, h.id, h.len, h.cmd, h.cells_eq, written_eq_some.mpr rfl, Option.map_some, sumBytes_eq_sum,
    checksumOf_eq_checksum, lengthOf_eq_max]

/-- `UCK` writes the packet's checksum, and nothing else (R145). -/
theorem State.Holds.exec_uck (hr : s.Ready) :
    exec .uck s =
      .next (s.withChecksum (BitVec.ofNat 8 (checksum x.toNat (max l.toNat 2) c.toNat ps))) := by
  refine exec_done hr ?_
  have hsum : packetChecksum s.quiet = _ := h.packetChecksum_eq
  rw [bodyOf, updateChecksum, hsum]
  rfl

/-- With a length byte of at least 2, `UCK` makes the packet valid (R81, R145). -/
theorem State.Holds.exec_uck_valid (hr : s.Ready) (hl : 2 ≤ l.toNat) :
    ∃ w : Byte, w.toNat = checksum x.toNat l.toNat c.toNat ps ∧ exec .uck s = .next (s.withChecksum w) :=
  ⟨_, by rw [toNat_ofNat_checksum, max_eq_left hl], h.exec_uck hr⟩

theorem State.Holds.withChecksum (w : Byte) : (s.withChecksum w).Holds x l c ps := { h with }

/-- The bytes of a packet whose length byte is at least 2 are its wire frame (R80, R146). -/
theorem State.Holds.packetCells_eq (hl : 2 ≤ l.toNat) {w : Byte} (hw : s.chk = some w) :
    packetCells s = (frame x l c ps w).map some := by
  rw [packetCells_of_len h.len, max_eq_left hl, BitVec.ofNat_toNat, BitVec.setWidth_eq, h.id, h.cmd, hw, frame,
    List.map_append, List.map_append, ← h.cells_eq]
  rfl

/-- `SER` with room for the whole packet emits its wire frame (R146). -/
theorem State.Holds.exec_ser (hr : s.Ready) (hl : 2 ≤ l.toNat) {w : Byte} (hw : s.chk = some w) {m : PortA}
    (hm : 6 + ps.length ≤ m.toNat) :
    exec (.ser m) s = .next (s.drive { res := countWord (6 + ps.length), out := frame x l c ps w }) := by
  have htake : (packetCells s).take m.toNat = (frame x l c ps w).map some := by
    rw [h.packetCells_eq hl hw, List.take_of_length_le (by rwa [List.length_map, length_frame])]
  rw [exec_ser_written hr htake, length_frame]
  rfl

end Holds

/-- A `⊥` among the values that `UCK` sums (R145). -/
theorem packetChecksum_eq_none {s : State}
    (h : s.id = none ∨ s.len = none ∨ s.cmd = none ∨
      ∃ l i, s.len = some l ∧ i < stored s.cfg.capacity l ∧ s.par.read i = none) : packetChecksum s = none := by
  unfold packetChecksum
  split
  next hid hlen hcmd =>
    simp only [hid, hlen, hcmd, reduceCtorEq, false_or] at h
    obtain ⟨l, i, hl, hi, hnone⟩ := h
    cases hl
    rw [Option.map_eq_none_iff, written_eq_none]
    exact List.mem_map.mpr ⟨i, List.mem_range.mpr hi, hnone⟩
  next => rfl

/-! ## Accessors (R150 to R155) -/

/-- An operation that reads out `r`: its value on `RES` and nothing else, or `Unwritten` where it is `⊥`. -/
theorem exec_readOut {i : Instr} {s : State} {r : Option Byte} {f : Byte → Word} (hr : s.Ready)
    (hi : bodyOf i s.quiet = readOut r f s.quiet) :
    (∀ b, r = some b → exec i s = .next (s.drive { res := f b })) ∧
    (r = none → exec i s = .next (s.enterFault .unwritten (opwOf i))) := by
  refine ⟨fun b hb => exec_done hr ?_, fun hb => exec_raise hr ?_⟩ <;> rw [hi, hb] <;> rfl

/-- A byte on `RES` is zero-extended (R95). -/
theorem zextByte_eq_ofNat (b : Byte) : zextByte b = BitVec.ofNat 32 b.toNat := (BitVec.ofNat_toNat 32 b).symm

/-- Below the capacity `RPAR` reads its cell (R154). -/
theorem readParam_of_lt {s : State} {i : PortA} (h : i.toNat < s.cfg.capacity) :
    readParam i s = readOut (s.par.read i.toNat) zextByte s := if_neg (Nat.not_le.mpr h)

/-! ## A constructed packet (R147) -/

/-- What the setters leave of the packet of id `x`, command `y` and parameters `q` (R140 to R142). -/
def State.withPacket (s : State) (x y : Byte) (q : List Byte) : State :=
  { s.quiet with
    id := some x
    cmd := some y
    par := s.par.writeBytes 0 (q.take s.cfg.capacity)
    len := some (BitVec.ofNat 8 (min q.length s.cfg.capacity + 2)) }

theorem exec_setters {s : State} (hr : s.Ready) (x y : Byte) (q : List Byte) :
    ∃ a b, exec (.sid x) s = .next a ∧ exec (.scmd y) a = .next b ∧ exec (.spar q) b = .next (s.withPacket x y q) :=
  ⟨_, _, exec_sid hr x, exec_scmd (s := { s.quiet with id := some x }) hr y,
    exec_spar (s := { s.quiet with id := some x, cmd := some y }) hr q⟩

theorem holds_withPacket {s : State} {q : List Byte} (hcap : s.cfg.capacity ≤ 253) (hq : q.length ≤ s.cfg.capacity)
    (x y : Byte) : ∃ l : Byte, l.toNat = q.length + 2 ∧ (s.withPacket x y q).Holds x l y q := by
  have hl := toNat_ofNat_length (hq.trans hcap)
  refine ⟨_, hl, holds_of_writeBytes rfl ?_ rfl rfl (by rw [numParams, hl, Nat.add_sub_cancel]) hq⟩
  rw [State.withPacket, min_eq_left hq]

/-- What a received frame leaves, its parameters within the capacity, is the packet it carries (R116). -/
theorem holds_withFrame {s : State} {l : Byte} {ps : List Byte} (hps : ps.length = numParams l)
    (hcap : ps.length ≤ s.cfg.capacity) (x c w : Byte) : (s.withFrame x l c ps w).Holds x l c ps :=
  holds_of_writeBytes rfl rfl rfl rfl hps hcap

/-- A valid frame within the capacity is received with the result `Ok` (R118). -/
theorem feed_frame_ok {s : State} (hr : s.Ready) (hp : s.pst = .idle) {x l c w : Byte} {ps : List Byte} (hx : x ≠ 0xFF)
    (hps : ps.length = numParams l) (hcap : ps.length ≤ s.cfg.capacity)
    (hw : w.toNat = checksum x.toNat l.toNat c.toNat ps) :
    feed (frame x l c ps w) s = some (List.replicate (5 + ps.length) 0 ++ [1], s.withFrame x l c ps w) := by
  rw [feed_frame_alone hr hp hx c hps w, frameStatus_of_eq hw, if_pos hcap]

end Sys2Proof.Machine
end

section
/-! PROOFS. The statements of the family 41_framer_transmit.md, each from the lemmas above. -/

namespace Sys2Proof.FramerTransmit

open Sys2Proof.Machine Sys2Proof.Claims

/-- Settles O36: the constructed state and the state a framer is in after receiving the serialized frame hold the same packet
and the same checksum, so both serialize to that frame. -/
theorem packetRoundTrip : Obligations.PacketRoundTrip := by
  intro s1 s2 x y q m hr1 hr2 hidle hcap hlegal hx hq hm
  obtain ⟨l, hl, hset⟩ := holds_withPacket hlegal hq x y
  have hl2 : 2 ≤ l.toNat := by omega
  have hcount : q.length = numParams l := by rw [numParams, hl, Nat.add_sub_cancel]
  have hq2 : q.length ≤ s2.cfg.capacity := hq.trans_eq hcap.symm
  obtain ⟨a, b, hsid, hscmd, hspar⟩ := exec_setters hr1 x y q
  obtain ⟨w, hw, huck⟩ := hset.exec_uck_valid hr1 hl2
  have hbuilt := hset.withChecksum w
  have hreceived := holds_withFrame hcount hq2 x y w
  exact ⟨a, b, _, _, _, _, _, hsid, hscmd, hspar, huck, hbuilt.exec_ser hr1 hl2 rfl hm, length_frame ..,
    feed_frame_ok hr2 hidle hx hcount hq2 hw, rfl, rfl, hbuilt.len.symm, rfl,
    fun i hi => ⟨hreceived.par i hi, hbuilt.par i hi⟩, hreceived.exec_ser hr2 hl2 rfl hm, rfl⟩

/-- Settles O29. -/
theorem setParameters : Obligations.SetParameters := by
  intro s q hr hcap
  refine ⟨rfl, _, exec_spar hr q, rfl, read_writeBytes_take s.par s.cfg.capacity q, fun l hl => ?_⟩
  have hcount : l.toNat - 2 = min q.length s.cfg.capacity := by
    cases hl
    rw [toNat_ofNat_length ((min_le_right _ _).trans hcap), Nat.add_sub_cancel]
  exact ⟨hcount, by rw [hcount, min_assoc, min_self]⟩

/-- Settles O31. -/
theorem updateChecksum : Obligations.UpdateChecksum := by
  intro s hr
  refine ⟨rfl, fun x l c ps hid hlen hcmd hlength hpar => ?_, fun hnone => ?_⟩
  · exact State.Holds.exec_uck ⟨hid, hlen, hcmd, hlength, hpar⟩ hr
  · refine exec_raise (i := .uck) hr ?_
    have hsum : packetChecksum s.quiet = none := packetChecksum_eq_none hnone
    rw [bodyOf, Machine.updateChecksum, hsum]

/-- Settles O32: the cells named are those of the packet, and `SER` reads its first `m`. -/
theorem serializePacket : Obligations.SerializePacket := by
  rintro s m l hr hl n rfl cells hcells
  have hpacket : cells = packetCells s := hcells.trans (packetCells_of_len hl).symm
  have hlength : cells.length = 6 + min (l.toNat - 2) s.cfg.capacity := hpacket ▸ length_packetCells hl
  refine ⟨rfl, fun bs hbs => ?_, fun hnone => exec_ser_unwritten hr (hpacket ▸ hnone)⟩
  have hcount : bs.length = min m.toNat (6 + min (l.toNat - 2) s.cfg.capacity) := by
    rw [← hlength, ← List.length_take, hbs, List.length_map]
  rw [← hcount]
  exact exec_ser_written hr (hpacket ▸ hbs)

/-- Settles O28. -/
theorem settersWriteOneRegister : Obligations.SettersWriteOneRegister := fun _ b hr =>
  ⟨rfl, exec_sid hr b, rfl, exec_scmd hr b⟩

/-- Settles O34: each accessor is one read-out of its register. -/
theorem registerAccessors : Obligations.RegisterAccessors := by
  intro s hr
  simp only [← zextByte_eq_ofNat, ← lengthOf_eq_max]
  obtain ⟨hid, hidFault⟩ := exec_readOut (i := .rid) hr rfl
  obtain ⟨hcmd, hcmdFault⟩ := exec_readOut (i := .rcmd) hr rfl
  obtain ⟨hlen, hlenFault⟩ := exec_readOut (i := .rlen) hr rfl
  obtain ⟨hcount, hcountFault⟩ := exec_readOut (i := .rnp) hr rfl
  obtain ⟨hchk, hchkFault⟩ := exec_readOut (i := .rchk) hr rfl
  exact ⟨⟨rfl, rfl, rfl, rfl, rfl⟩, hid, hidFault, hcmd, hcmdFault, hlen, hlenFault, hcount, hcountFault, hchk,
    hchkFault⟩

/-- Settles O35: the index is checked before the cell is read out. -/
theorem readParameter : Obligations.ReadParameter := by
  intro s i hr
  refine ⟨rfl, fun hge => exec_raise hr (if_pos hge), fun hlt => ?_, fun b hlt => ?_⟩
  · exact (exec_readOut (i := .rpar i) hr (readParam_of_lt (s := s.quiet) hlt)).2
  · rw [← zextByte_eq_ofNat]
    exact (exec_readOut (i := .rpar i) hr (readParam_of_lt (s := s.quiet) hlt)).1 b

end Sys2Proof.FramerTransmit
end

section
/-! PROOFS. The control table's read and its baud side effect: the bytes a `TGET` assembles, the outcome of a `TGET` on any
device, and the rate a `TSET` at `OFF_BAUD` sends to the transport. -/

namespace Sys2Proof

open Sys2Proof.Claims

/-! ## The value of a sequence of cells (R61) -/

/-- The first byte of a sequence has weight 1, and every other byte 256 times its weight in the rest. -/
theorem tableValue_cons (b : Byte) (bs : List Byte) : tableValue (b :: bs) = b.toNat + 256 * tableValue bs := by
  have hweight (k : Nat) : (bs.getD k 0).toNat * 256 ^ (k + 1) = 256 * ((bs.getD k 0).toNat * 256 ^ k) := by
    rw [Nat.pow_succ', Nat.mul_left_comm]
  simp only [tableValue, List.length_cons, List.range_succ_eq_map, List.map_cons, List.map_map, Function.comp_def,
    List.sum_cons, List.getD_cons_zero, List.getD_cons_succ, Nat.pow_zero, Nat.mul_one, hweight, List.sum_map_mul_left]

/-- Cells that hold the bytes of a sequence assemble to the value of that sequence. -/
theorem Memory.readLE_eq_tableValue {m : Memory} {off : Nat} {bs : List Byte}
    (h : ∀ k, k < bs.length → m.read (off + k) = bs[k]?) : m.readLE off bs.length = some (tableValue bs) := by
  induction bs generalizing off with
  | nil => rfl
  | cons b bs ih =>
    have hfirst : m.read off = some b := h 0 (Nat.succ_pos _)
    have hrest : m.readLE (off + 1) bs.length = some (tableValue bs) := ih fun k hk => by
      rw [Nat.add_assoc, Nat.add_comm 1 k]
      exact h (k + 1) (Nat.succ_lt_succ hk)
    simp only [List.length_cons, Memory.readLE, hfirst, hrest, tableValue_cons]

/-- One `⊥` among the cells, and they have no value (R61). -/
theorem Memory.readLE_eq_none {m : Memory} {off n k : Nat} (hk : k < n) (h : m.read (off + k) = none) :
    m.readLE off n = none := by
  induction n generalizing off k with
  | zero => exact absurd hk (Nat.not_lt_zero k)
  | succ n ih =>
    cases k with
    | zero =>
      have hfirst : m.read off = none := h
      simp only [Memory.readLE, hfirst]
    | succ k =>
      have hrest : m.readLE (off + 1) n = none := ih (Nat.lt_of_succ_lt_succ hk) (by rwa [Nat.add_right_comm])
      cases hfirst : m.read off <;> simp only [Memory.readLE, hfirst, hrest]

namespace Machine

/-! ## `TGET` on any device (R170, R177) -/

/-- The populate hook neither reads nor drives the outputs. -/
theorem populateEntry_quiet (off : Nat) (s : State) : populateEntry off s.quiet = (populateEntry off s).quiet := by
  unfold populateEntry
  rw [State.quiet_cfg]
  split <;> rfl

theorem exec_get_bounds {n : Nat} {signed : Bool} {mk : PortA → Instr} (hmk : (n, signed, mk) ∈ gets) {s : State}
    {off : PortA} (hr : s.Ready) (hb : s.cfg.numCtl < off.toNat + n) :
    exec (mk off) s = .next (s.enterFault .tableBounds (opwOf (mk off))) :=
  exec_raise hr (by rw [bodyOf_get hmk]; exact if_pos hb)

section InBounds

variable {n : Nat} {signed : Bool} {mk : PortA → Instr} (hmk : (n, signed, mk) ∈ gets) {s : State} {off : PortA}
  (hr : s.Ready) (hb : off.toNat + n ≤ s.cfg.numCtl)
include hmk hr hb

theorem exec_get_unwritten (hv : (populateEntry off.toNat s).tbl.readLE off.toNat n = none) :
    exec (mk off) s = .next (s.enterFault .unwritten (opwOf (mk off))) := by
  refine exec_raise hr ?_
  simp only [bodyOf_get hmk, tableGet, State.quiet_cfg, if_neg (Nat.not_lt.mpr hb), populateEntry_quiet, State.quiet_tbl,
    hv]

theorem exec_get_value {v : Nat} (hv : (populateEntry off.toNat s).tbl.readLE off.toNat n = some v) :
    exec (mk off) s = .next ((populateEntry off.toNat s).drive { res := extend n signed v }) := by
  refine exec_done hr ?_
  simp only [bodyOf_get hmk, tableGet, State.quiet_cfg, if_neg (Nat.not_lt.mpr hb), populateEntry_quiet, State.quiet_tbl,
    hv, State.quiet_drive]

end InBounds

/-! ## The baud side effect (R190, R191, R272) -/

theorem toNat_baudRate (sv : Byte) : (baudRate sv).toNat = 2000000 / (sv.toNat + 1) := by
  have hle : 2000000 / (sv.toNat + 1) ≤ 2000000 := Nat.div_le_self _ _
  exact Nat.mod_eq_of_lt (hle.trans_lt (by decide))

/-- Every `TSET` stores at least one byte. -/
theorem pos_of_mem_sets {n : Nat} {mk : PortA → Word → Instr} (h : (n, mk) ∈ sets) : 0 < n := by
  simp only [sets, List.mem_cons, Prod.mk.injEq, List.not_mem_nil, or_false] at h
  omega

/-- A write at `OFF_BAUD` leaves the low byte of its value there, and the event carries that byte's rate. -/
theorem baudEvents_writeLE (m : Memory) {n : Nat} (hn : 0 < n) (v : Word) :
    baudEvents Config.offBaud (m.writeLE Config.offBaud n v) =
      [.setBaud (BitVec.ofNat 32 (2000000 / (v.toNat % 256 + 1)))] := by
  have hread : (m.writeLE Config.offBaud n v).read Config.offBaud = some (v.extractLsb' (8 * 0) 8) := by
    rw [Memory.read_writeLE, if_pos (by omega), Nat.sub_self]
  rw [baudEvents_offBaud hread, baudRate, toNat_extractLsb'_byte, Nat.pow_zero, Nat.div_one]
  rfl

/-! ## A device outside the model (R192) -/

theorem exec_reentrant (i : Instr) {s : State} (hd : s.cfg.device = .reentrant) :
    exec i s = .refused .reentrantHook :=
  (exec_eq_operate i s).trans (operate_reentrant hd _ _)

end Machine

end Sys2Proof
end

section
/-! PROOFS. The statements of the family 42_control_table.md, each from the lemmas above. -/

namespace Sys2Proof.ControlTable

open Sys2Proof.Machine Sys2Proof.Claims

/-- Settles O37: one `⊥` among the bytes leaves the read without a value; otherwise it assembles theirs. -/
theorem tableRead : Obligations.TableRead := by
  intro n signed mk hmk s off hr
  refine ⟨exec_get_bounds hmk hr, fun hb => ⟨?_, ?_⟩⟩
  · rintro ⟨k, hk, hnone⟩
    exact exec_get_unwritten hmk hr hb (Memory.readLE_eq_none hk hnone)
  · rintro bs rfl hbs
    have hv := Memory.readLE_eq_tableValue hbs
    rw [exec_get_value hmk hr hb hv, extend_eq_extended signed (pos_of_mem_gets hmk) (Memory.readLE_lt hv)]
    rfl

/-- Settles O42: the base device's events are those of `baudEvents` on the table just written. -/
theorem baudSideEffect : Obligations.BaudSideEffect := by
  intro n mk hmk s t off v hd hr hb h
  cases (exec_set_base hmk v hd hr hb).symm.trans h
  refine ⟨fun hoff => ?_, fun hoff => baudEvents_of_ne hoff _⟩
  dsimp only
  rw [hoff]
  exact baudEvents_writeLE s.tbl (pos_of_mem_sets hmk) v

/-- Settles O14. -/
theorem reentrantDeviceRefused : Obligations.ReentrantDeviceRefused := fun i _ hd => exec_reentrant i hd

/-- Settles O43: the rates by evaluation, the range because a byte divides by at most 256. -/
theorem baudRates : Obligations.BaudRates := by
  refine ⟨by simp [baudRate, Config.baudNum], fun sv => ?_⟩
  have hsv := sv.isLt
  rw [toNat_baudRate]
  constructor
  · calc
      7812 = 2000000 / 256 := rfl
      _ ≤ 2000000 / (sv.toNat + 1) := Nat.div_le_div_left (by omega) (Nat.succ_pos _)
  · exact Nat.div_le_self _ _

end Sys2Proof.ControlTable
end

section
/-! PROOFS. Persistence: what the image that `SAVE` sends says of the table (R212), and the statements of the family
43_persistence.md. -/

namespace Sys2Proof.Machine

/-! ## The image `SAVE` sends (R212) -/

theorem Persists.length_eq {s : State} {q : List Byte} (h : Persists s q) : q.length = s.cfg.numPersistent := by
  have hlen := congrArg List.length h
  simpa [Memory.cells] using hlen.symm

/-- A persistent cell holds the byte of the image at its offset. -/
theorem Persists.read_eq {s : State} {q : List Byte} (h : Persists s q) {a : Nat} (ha : a < s.cfg.numPersistent) :
    s.tbl.read a = q[a]? := by
  have hq : a < q.length := h.length_eq.symm ▸ ha
  have hcell := congrArg (·[a]?) h
  simpa [Memory.cells, ha, hq] using hcell

/-- The one event of a `SAVE` that is done carries the persistent region, whatever the answer. -/
theorem saveTable_image {ans : StorageAnswer} {s t : State} (h : saveTable ans s = .done t) :
    ∃ q, Persists s q ∧ t.ports.ev = [.storeSave 0#16 (storeCount s.cfg) q] := by
  unfold saveTable at h
  split at h
  · cases h
  next image himage =>
    refine ⟨image, written_eq_some.mp himage, ?_⟩
    cases ans <;> cases h
    all_goals rfl

/-- A `SAVE` that sends anything sends the persistent region: a faulted block and a fault entry send nothing (R236, R237). -/
theorem persists_of_exec_save {ans : StorageAnswer} {s t : State} {off n : BitVec 16} {d : List Byte}
    (h : exec (.save ans) s = .next t) (hev : t.ports.ev = [.storeSave off n d]) : Persists s d := by
  rcases exec_next h with ⟨-, -, rfl⟩ | ⟨-, hb⟩ | ⟨-, c, -, rfl⟩
  · cases hev
  · obtain ⟨q, hq, hsent⟩ := saveTable_image hb
    cases hsent.symm.trans hev
    exact hq
  · cases hev

end Sys2Proof.Machine

namespace Sys2Proof.Persistence

open Sys2Proof.Machine

/-- Settles O52: the image sent holds the persistent region cell by cell, and the later `LOAD` puts it over a zeroed table. -/
theorem saveThenLoadRestores : Obligations.SaveThenLoadRestores := by
  intro s t s' ans n d _ hr' _ hcfg hsave hev
  have hq : Persists s d := persists_of_exec_save hsave hev
  have hd : d.length = s'.cfg.numPersistent := hcfg ▸ hq.length_eq
  refine ⟨_, exec_load_okData hr' hd, fun a ha => ?_, fun a hPa haN => ?_⟩
  · have hda : a < d.length := hq.length_eq.symm ▸ ha
    refine ⟨?_, by simp [hq.read_eq ha, hda]⟩
    rw [read_loadedTable hd, hcfg, if_pos ha, hq.read_eq ha]
  · rw [read_loadedTable hd, hcfg, if_neg (Nat.not_lt.mpr hPa), if_pos haN]
    rfl

/-- Settles O49: both tables are the TRST-body's, which reads the parameters alone. -/
theorem loadFailureEqualsReset : Obligations.LoadFailureEqualsReset := fun _ _ hr hr' hcfg =>
  ⟨_, _, exec_load_failed hr, exec_trst hr', congrArg resetTable hcfg⟩

end Sys2Proof.Persistence
end

section
/-! PROOFS. The faulted block (R237): what it does with an operation and with a request, and which requests the ports cannot
carry. -/

namespace Sys2Proof

/-! ## Only a sequence too long for `SEQ` is refused (R7) -/

theorem decodeSpar_tooLong {w : Byte} {q : List Byte} (h : decodeSpar w q = .error .seqTooLong) : maxSeq < q.length := by
  unfold decodeSpar at h
  split at h
  · split at h
    · cases h
    next hlen => exact Nat.lt_of_not_le hlen
  · cases h

theorem decodeTget_error {wc s : Nat} {a : PortA} {e : DecodeError} (h : decodeTget wc s a = .error e) :
    e = .reservedOp := by
  unfold decodeTget at h
  split at h <;> cases h
  rfl

theorem decodeTset_error {wc s : Nat} {a : PortA} {b : Word} {e : DecodeError} (h : decodeTset wc s a b = .error e) :
    e = .reservedOp := by
  unfold decodeTset at h
  split at h <;> cases h
  rfl

/-- A request whose sequence `SEQ` can carry has no other decode error than a reserved word: only `SPAR` checks the sequence
(log 14). -/
theorem decode_error_of_length_le {r : Request} {e : DecodeError} (hq : r.seq.length ≤ maxSeq) (h : decode r = .error e) :
    e = .reservedOp := by
  unfold decode at h
  split at h
  case h_7 =>
    cases e with
    | reservedOp => rfl
    | seqTooLong => exact absurd hq (Nat.not_le_of_lt (decodeSpar_tooLong h))
  case h_14 => exact decodeTget_error h
  case h_15 => exact decodeTset_error h
  case h_19 => exact (Except.error.inj h).symm
  all_goals exact (decodePlain_error.mp h).2

namespace Machine

/-! ## Requests to a faulted block (R237, log 6) -/

section Faulted

variable {s : State} (hf : s.fault = true) (hd : s.cfg.device ≠ .reentrant)
include hf hd

theorem exec_faulted (i : Instr) : exec i s = .next s.quiet :=
  (exec_eq_operate i s).trans (operate_faulted hf hd _ _)

/-- A faulted block takes the request and drives the default outputs, whether or not its word is reserved. -/
theorem step_op_faulted {r : Request} {rest : List HostInput} (hi : s.inputs = .op r :: rest)
    (hq : r.seq.length ≤ maxSeq) : step s = .next (State.quiet { s with inputs := rest }) := by
  rw [step_op hi]
  cases hdec : decode r with
  | ok i => exact exec_faulted (s := { s with inputs := rest }) hf hd i
  | error e =>
    obtain rfl := decode_error_of_length_le hq hdec
    exact operate_faulted (s := { s with inputs := rest }) hf hd _ _

end Faulted

/-! ## A fault is precise (R236) -/

/-- The record of a block that had not faulted is set by the fault entry alone, on the state before the operation: a body that
is done keeps the record, and the cause it raises is never "no fault". -/
theorem exec_sets_fault {i : Instr} {s t : State} (hf : s.fault = false) (h : exec i s = .next t) (ht : t.fault = true) :
    ∃ c, c ≠ .none ∧ t = s.enterFault c (opwOf i) := by
  rcases exec_next h with ⟨hs, -, -⟩ | ⟨-, hb⟩ | ⟨-, c, hb, rfl⟩
  · exact absurd (hf.symm.trans hs) Bool.false_ne_true
  · obtain ⟨hkept, -⟩ := bodyOf_done hb
    exact absurd (hf.symm.trans (hkept.symm.trans ht)) Bool.false_ne_true
  · exact ⟨c, (bodyOf_raise hb).1, rfl⟩

end Machine

end Sys2Proof
end

section
/-! PROOFS. The statements of the family 60_exceptions.md, each from the lemmas above. -/

namespace Sys2Proof.Exceptions

open Sys2Proof.Machine Sys2Proof.Claims

/-- Settles O9: of the ways an operation ends, the fault entry alone sets the record. -/
theorem faultEntryIsPrecise : Obligations.FaultEntryIsPrecise := fun _ _ _ => exec_sets_fault

/-- Settles O11: an operation and a request are ignored alike, and the reset state has the record clear. -/
theorem faultedBlockIgnoresRequests : Obligations.FaultedBlockIgnoresRequests := by
  intro s hf hd
  refine ⟨exec_faulted hf hd, fun r rest hi hq => step_op_faulted hf hd hi hq, fun rest hi => ?_⟩
  exact ⟨_, step_rst hi, rfl, rfl, rfl⟩

/-- Settles O13: a reserved word decodes to no operation, and each bounds check stands first in its body, on the state before
any hook. -/
theorem faultPriority : Obligations.FaultPriority := by
  intro s hr
  refine ⟨fun r rest hi hw => ?_, fun n signed mk hmk off hb => ?_, fun i hb => ?_⟩
  · exact step_reserved hr hi ((decode_reserved_iff r).mpr hw)
  · exact exec_get_bounds hmk hr hb
  · exact exec_raise (i := .rpar i) hr (if_pos hb)

end Sys2Proof.Exceptions
end
